-- ==== Sys2Proof/Word.lean ====
section
/-! DEFINITION. The two widths of the hardware's data (spec/00_scope.md R11): a word is 16 bits, a byte is 8 bits, both
unsigned, bit 0 the least significant. -/

namespace Sys2Proof

/-- A 16-bit unsigned word: a lane, a round constant, a command word (R11, R20, R90). -/
abbrev Word := BitVec 16

/-- An 8-bit unsigned byte: one element of a byte space (R11, R60). -/
abbrev Byte := BitVec 8

end Sys2Proof
end

