-- ==== Sys2Proof/Syntax.lean ====
section
/-! DEFINITION. The twelve commands (spec/30_encoding.md R94, spec/opcode_table.json), one constructor per row. -/

namespace Sys2Proof

/-- A command. The argument of `iota` and `round` is the field `cw[3:0]` of the command word (R92, R93); every other
command has no operand in its word (R91). -/
inductive Instr where
  /-- ST.CLR, 0x0100: zero the StateMatrix (R112). -/
  | stClr
  /-- THETA, 0x0200: diffusion (R113). -/
  | theta
  /-- RHO, 0x0300: rotation (R114). -/
  | rho
  /-- PI, 0x0400: lane relocation (R115). -/
  | pi
  /-- CHI, 0x0500: non-linear mixing (R116). -/
  | chi
  /-- IOTA r, 0x060r: constant injection (R117). -/
  | iota (r : BitVec 4)
  /-- ROUND r, 0x070r: one round (R118). -/
  | round (r : BitVec 4)
  /-- PERMUTE, 0x0800: the ten rounds (R119). -/
  | permute
  /-- HASH, 0x1000: digest of the message (R149). -/
  | hash
  /-- E.INIT, 0x2000: restart the enumerator (R172). -/
  | eInit
  /-- E.NEXT, 0x2100: the next tuple (R173). -/
  | eNext
  /-- SEARCH, 0x3000: look for a preimage of the target (R198). -/
  | search
  deriving DecidableEq, Repr

end Sys2Proof
end

