-- ==== Sys2Proof/WellFormed.lean ====
section
/-! DEFINITION. Which instruction terms stand for a legal command word (spec/30_encoding.md R92, R93, R95). -/

namespace Sys2Proof

/-- A round index is legal when it is in 0..9 (R93). -/
def roundIndexLegal (r : BitVec 4) : Bool := r.toNat < 10

/-- An instruction is well formed when its round index, if it has one, is legal; the ten Format N commands always are. -/
def wellFormed : Instr → Bool
  | .iota r => roundIndexLegal r
  | .round r => roundIndexLegal r
  | .stClr | .theta | .rho | .pi | .chi | .permute | .hash | .eInit | .eNext | .search => true

end Sys2Proof
end

