-- ==== Sys2Proof/Decode.lean ====
section
/-! DEFINITION. The decoder, total on every 16-bit word, and the encoder (spec/30_encoding.md R90 to R95). -/

namespace Sys2Proof

/-- Why a command word is illegal (R95). -/
inductive DecodeError where
  /-- `op` is outside the twelve opcodes of R94. -/
  | unknownOpcode (op : Byte)
  /-- A Format N opcode with `arg ≠ 0x00` (R91). -/
  | argumentNotZero (arg : Byte)
  /-- A Format R opcode with `cw[7:4] ≠ 0` (R92). -/
  | upperArgumentNotZero (field : BitVec 4)
  /-- A Format R opcode with `cw[3:0]` in 10..15 (R92). -/
  | roundIndexTooLarge (r : BitVec 4)
  deriving DecidableEq, Repr

/-- `op = cw[15:8]` (R90). -/
def opField (cw : Word) : Byte := cw.extractLsb' 8 8

/-- `arg = cw[7:0]` (R90). -/
def argField (cw : Word) : Byte := cw.extractLsb' 0 8

/-- `cw[7:4]`, which Format R wants zero (R92). -/
def upperArgField (cw : Word) : BitVec 4 := cw.extractLsb' 4 4

/-- `r = cw[3:0]` (R92, R93). -/
def roundField (cw : Word) : BitVec 4 := cw.extractLsb' 0 4

/-- Format N: no operand, `arg` must be zero (R91). -/
def decodeFormatN (cw : Word) (i : Instr) : Except DecodeError Instr :=
  if argField cw = 0 then .ok i else .error (.argumentNotZero (argField cw))

/-- Format R: `cw[7:4]` must be zero and the round index legal (R92, R93). -/
def decodeFormatR (cw : Word) (mk : BitVec 4 → Instr) : Except DecodeError Instr :=
  if upperArgField cw ≠ 0 then .error (.upperArgumentNotZero (upperArgField cw))
  else if roundIndexLegal (roundField cw) then .ok (mk (roundField cw))
  else .error (.roundIndexTooLarge (roundField cw))

/-- The opcode map of R94: a word decodes to its command, or is illegal for a named reason (R95). -/
def decode (cw : Word) : Except DecodeError Instr :=
  match opField cw with
  | 0x01#8 => decodeFormatN cw .stClr
  | 0x02#8 => decodeFormatN cw .theta
  | 0x03#8 => decodeFormatN cw .rho
  | 0x04#8 => decodeFormatN cw .pi
  | 0x05#8 => decodeFormatN cw .chi
  | 0x06#8 => decodeFormatR cw .iota
  | 0x07#8 => decodeFormatR cw .round
  | 0x08#8 => decodeFormatN cw .permute
  | 0x10#8 => decodeFormatN cw .hash
  | 0x20#8 => decodeFormatN cw .eInit
  | 0x21#8 => decodeFormatN cw .eNext
  | 0x30#8 => decodeFormatN cw .search
  | op => .error (.unknownOpcode op)

/-- The opcode of each command (R94). -/
def opcodeOf : Instr → Byte
  | .stClr => 0x01
  | .theta => 0x02
  | .rho => 0x03
  | .pi => 0x04
  | .chi => 0x05
  | .iota _ => 0x06
  | .round _ => 0x07
  | .permute => 0x08
  | .hash => 0x10
  | .eInit => 0x20
  | .eNext => 0x21
  | .search => 0x30

/-- The argument byte of each command: the round index in Format R, zero in Format N (R91, R92). -/
def argumentOf : Instr → Byte
  | .iota r | .round r => (0 : BitVec 4) ++ r
  | .stClr | .theta | .rho | .pi | .chi | .permute | .hash | .eInit | .eNext | .search => 0

/-- The command word: opcode in the high byte, argument in the low byte (R90). -/
def encode (i : Instr) : Word := opcodeOf i ++ argumentOf i

/-- The instruction the decoder reads from a command word given as a number. Every command has 16 bits and a command
word is one number written to CMD, so bit 0 of `w` is bit 0 of the word; a number above 16 bits is no command word. -/
def decodeTableWord (_nbits w : Nat) : Option Instr :=
  if w < 65536 then (decode (BitVec.ofNat 16 w)).toOption else none

end Sys2Proof
end

