-- ==== Sys2Proof/Config.lean ====
section
/-! DEFINITION. What the spec leaves open (spec/00_scope.md R9, spec/10_state.md R45): the round constants, the number of
workers, the two capacities, and every free value. The machine's operations take them as one argument of type `Params`;
the machine itself runs with `Config.hw`, whose parts are opaque constants, so that no proof can know a value of them. -/

namespace Sys2Proof.Config

/-- The open parameters of the model (R9). W and L_MAX are kept one less than their value, so that "W ≥ 1" and
"L_MAX ≥ 1" hold by construction. -/
structure Params where
  /-- `RC[0..9]`, the ten round constants (R26). -/
  rc : Fin 10 → Word
  /-- W − 1, where W is the number of search workers. -/
  workersLess1 : Nat
  /-- MSG_MAX, the capacity of the MSG space in bytes (R37). -/
  msgMax : Nat
  /-- L_MAX − 1, where L_MAX is the capacity of the tuple spaces (R32, R39 to R41). -/
  lMaxLess1 : Nat
  /-- The byte that an offset of a space holds while it is unspecified: draw number, then offset (R46). -/
  drawByte : Nat → Nat → Byte
  /-- The value a SEARCH, or reset, leaves in ELAPSED: draw number (R34, R46). -/
  drawElapsed : Nat → BitVec 64
  /-- What a worker's private matrix holds when SEARCH creates it: draw number, worker, lane number (R192). -/
  drawLane : Nat → Nat → Nat → Word
  /-- The schedule of a SEARCH: draw number, then how many worker steps have been taken; the value selects one of the
  steps enabled at that moment (R195 to R198). -/
  schedule : Nat → Nat → Nat

/-- W ≥ 1 (R9). -/
def Params.workers (p : Params) : Nat := p.workersLess1 + 1

/-- L_MAX ≥ 1 (R9). -/
def Params.lMax (p : Params) : Nat := p.lMaxLess1 + 1

/-- The hardware's round constants: open, the source does not list them (spec/91_not_in_source.md N1). -/
opaque rc : Fin 10 → Word

/-- W − 1 of the hardware: open (N5). -/
opaque workersLess1 : Nat

/-- MSG_MAX of the hardware: open (R9). -/
opaque msgMax : Nat

/-- L_MAX − 1 of the hardware: open (R9). -/
opaque lMaxLess1 : Nat

/-- Free value: an unspecified byte (R46, spec/93_implementation_defined.md U7, U8). -/
opaque drawByte : Nat → Nat → Byte

/-- Free value: ELAPSED (R34, U6). -/
opaque drawElapsed : Nat → BitVec 64

/-- Free value: a lane of a worker's matrix at the start of SEARCH (R192). -/
opaque drawLane : Nat → Nat → Nat → Word

/-- Free value: the schedule of the workers (U2, U4). -/
opaque schedule : Nat → Nat → Nat

/-- The parameters the machine runs with. -/
def hw : Params where
  rc := rc
  workersLess1 := workersLess1
  msgMax := msgMax
  lMaxLess1 := lMaxLess1
  drawByte := drawByte
  drawElapsed := drawElapsed
  drawLane := drawLane
  schedule := schedule

end Sys2Proof.Config
end

