-- ==== Sys2Proof/Machine/State.lean ====
section
/-! DEFINITION. The machine's state as plain data (spec/10_state.md), the host's actions that drive it, the transient
state of a SEARCH, the reasons a step can stop, and the state after reset. -/

namespace Sys2Proof.Machine

open Sys2Proof.Config

/-- Five lanes with the same first index: "row i" (spec/00_scope.md R14). -/
structure Row where
  l0 : Word
  l1 : Word
  l2 : Word
  l3 : Word
  l4 : Word
  deriving DecidableEq, Repr

/-- A StateMatrix: 25 lanes `A[i][j]`, row `i` in the field `ri`, lane `(i,j)` in the field `lj` of that row (R20). -/
structure StateMatrix where
  r0 : Row
  r1 : Row
  r2 : Row
  r3 : Row
  r4 : Row
  deriving DecidableEq, Repr

/-- Five zero lanes. -/
def Row.zero : Row := ⟨0, 0, 0, 0, 0⟩

/-- The all-zero matrix: "created zeroed" (R23, R46). -/
def StateMatrix.zero : StateMatrix := ⟨Row.zero, Row.zero, Row.zero, Row.zero, Row.zero⟩

/-- STATUS.ESTATE (R28): the enumerator has emitted nothing yet, stands at a tuple, or has none left. -/
inductive EState where
  | notStarted
  | atTuple
  | exhausted
  deriving DecidableEq, Repr

/-- STATUS.SSTATE (R28): no search has ended since reset, the last one found a preimage, or it found none. -/
inductive SState where
  | none
  | found
  | notFound
  deriving DecidableEq, Repr

/-- The three synchronous exceptions (spec/60_exceptions.md R220). -/
inductive Exception where
  | searchExhausted
  | illegalCommand
  | badParameter
  deriving DecidableEq, Repr

/-- The byte spaces (R35 to R41). The LANE space is the matrix of unit H0 (R42). -/
inductive Space where
  | msg
  | alpha
  | target
  | digest
  | idx
  | cand
  | result
  deriving DecidableEq, Repr

/-- One byte space: the bytes stored since it was last unspecified, and the draw number that every other offset reads
from. DESIGN CHOICE, log entry 4: an unlisted offset holds no stored byte. -/
structure Memory where
  /-- (offset, byte), offsets strictly rising. -/
  cells : List Host.Cell
  /-- The draw number of the bytes not listed. -/
  seed : Nat
  deriving DecidableEq, Repr

/-- A space whose every byte is unspecified (R46). -/
def Memory.unspecified (seed : Nat) : Memory := ⟨[], seed⟩

/-- What the host does (R47, R97): it writes or reads a register by number, a lane, or a byte of a space; it resets the
hardware (R250); or it issues a command and resets the hardware before that command ends (R250). A write to register
0x00 issues the command word written (R27). -/
inductive HostAction where
  | setReg (no : Nat) (v : BitVec 64)
  | getReg (no : Nat)
  | setLane (k : Fin 25) (v : Word)
  | getLane (k : Fin 25)
  | setByte (sp : Space) (offset : Nat) (v : Byte)
  | getByte (sp : Space) (offset : Nat)
  | reset
  | abort (cw : Word)
  deriving DecidableEq, Repr

/-- The machine (R20 to R42). The last three fields are the model's own: the number of the next free value, the host's
actions still to come (R100), and the values the host has read, the newest first. -/
structure State where
  /-- `A[i][j]` of unit H0, the LANE space (R20, R42). -/
  lanes : StateMatrix
  /-- STATUS[1:0] (R28). -/
  estate : EState
  /-- STATUS[3:2] (R28). -/
  sstate : SState
  /-- STATUS[4] (R28). -/
  dvalid : Bool
  /-- STATUS[5] (R28). -/
  fault : Bool
  /-- CAUSE: the most recent exception since reset, if any (R29). -/
  cause : Option Exception
  /-- XINFO: the command word that raised it (R29). -/
  xinfo : Word
  /-- MSG_LEN, P (R30). -/
  msgLen : BitVec 32
  /-- ALPHA_N, N (R31). -/
  alphaN : Word
  /-- TUPLE_L, L (R32). -/
  tupleL : Word
  /-- RESULT_LEN (R33). -/
  resultLen : Word
  /-- ELAPSED (R34). -/
  elapsed : BitVec 64
  /-- MSG (R37). -/
  msg : Memory
  /-- ALPHA (R38). -/
  alpha : Memory
  /-- TARGET (R36). -/
  target : Memory
  /-- DIGEST (R35). -/
  digest : Memory
  /-- IDX (R39). -/
  idx : Memory
  /-- CAND (R40). -/
  cand : Memory
  /-- RESULT (R41). -/
  result : Memory
  /-- The model's own: the number of the next free value (log entry 2). -/
  draws : Nat
  /-- The model's own: the host's actions still to come, in order (R100, log entry 1). -/
  pending : List HostAction
  /-- The model's own: what the host's reads returned, the newest first (log entry 3). -/
  got : List (BitVec 64)
  deriving DecidableEq, Repr

/-- A search worker (R43, R192): its current candidate tuple, whether it has halted, its private matrix `A_w`. -/
structure Worker where
  cur : Option (List Nat)
  halted : Bool
  lanes : StateMatrix
  deriving DecidableEq, Repr

/-- The state that exists only while SEARCH runs (R43, R192): the found flag, the result slot, the tuples handed out,
and the W workers. -/
structure Workers where
  found : Bool
  slot : Option (List Byte)
  claimed : List (List Nat)
  units : List Worker
  deriving DecidableEq, Repr

/-- One step of one worker (R195 to R197). -/
inductive WorkerStep where
  | claim (w : Nat) (t : List Nat)
  | eval (w : Nat)
  | drop (w : Nat)
  | halt (w : Nat)
  deriving DecidableEq, Repr

/-- Why a step stops with a fault. No command does. -/
inductive Fault where
  /-- Raised by a host access to an offset outside its space, which spec/93_implementation_defined.md U14 calls not
  expressible (log entry 13). Safe: the hardware has no such access. -/
  | noSuchElement (sp : Space) (offset : Nat)
  deriving DecidableEq, Repr

/-- Why a step is refused. -/
inductive Refusal where
  /-- Raised by an arm of `exec` whose instruction has no meaning yet. Safe: the machine stops. No arm does so now. -/
  | notModelled (mnemonic : String)
  deriving DecidableEq, Repr

/-- The state after a reset that draws its free values from number `n` on (R46, R251): ELAPSED and every byte space are
unspecified, so each takes a draw number of its own. Nothing is pending. -/
def State.resetWith (p : Params) (n : Nat) : State where
  lanes := StateMatrix.zero
  estate := .notStarted
  sstate := .none
  dvalid := false
  fault := false
  cause := none
  xinfo := 0
  msgLen := 0
  alphaN := 0
  tupleL := 1
  resultLen := 0
  elapsed := p.drawElapsed (n + 7)
  msg := Memory.unspecified n
  alpha := Memory.unspecified (n + 1)
  target := Memory.unspecified (n + 2)
  digest := Memory.unspecified (n + 3)
  idx := Memory.unspecified (n + 4)
  cand := Memory.unspecified (n + 5)
  result := Memory.unspecified (n + 6)
  draws := n + 8
  pending := []
  got := []

/-- The machine right after reset (R46), idle (R251). -/
def State.reset : State := State.resetWith Config.hw 0

end Sys2Proof.Machine
end

