-- ==== Sys2Proof/Machine/Ops.lean ====
section
/-! DEFINITION. The named operations over lanes, words, byte spaces and the exception registers, each in one place. -/

namespace Sys2Proof.Machine

open Sys2Proof.Config

/-! ### Lanes -/

/-- Lane `j` of a row. -/
def rowLane (R : Row) : Fin 5 → Word
  | 0 => R.l0
  | 1 => R.l1
  | 2 => R.l2
  | 3 => R.l3
  | 4 => R.l4

/-- Row `i` of a matrix. -/
def matrixRow (A : StateMatrix) : Fin 5 → Row
  | 0 => A.r0
  | 1 => A.r1
  | 2 => A.r2
  | 3 => A.r3
  | 4 => A.r4

/-- `A[i][j]` (R13, R20). -/
def lane (A : StateMatrix) (i j : Fin 5) : Word := rowLane (matrixRow A i) j

/-- The row whose lane `j` is `f j`. -/
def rowOf (f : Fin 5 → Word) : Row := ⟨f 0, f 1, f 2, f 3, f 4⟩

/-- The matrix whose lane `(i,j)` is `f i j`: how a stage writes all 25 lanes at once from the snapshot (R13, R120). -/
def matrixOf (f : Fin 5 → Fin 5 → Word) : StateMatrix :=
  ⟨rowOf (f 0), rowOf (f 1), rowOf (f 2), rowOf (f 3), rowOf (f 4)⟩

/-- The first index of LANE number `k` (R42: `LANE[5·i + j] = A[i][j]`). -/
def laneRow (k : Fin 25) : Fin 5 := ⟨k.val / 5, by omega⟩

/-- The second index of LANE number `k` (R42). -/
def laneColumn (k : Fin 25) : Fin 5 := ⟨k.val % 5, by omega⟩

/-- `A[i][j] <- v`, the other 24 lanes kept (R13). -/
def setLane (A : StateMatrix) (i j : Fin 5) (v : Word) : StateMatrix :=
  matrixOf fun a b => if a = i ∧ b = j then v else lane A a b

/-- `rotl16(v, n)`: bit `k` moves to bit `(k + n) mod 16` (R12, R111). -/
def rotl16 (v : Word) (n : Nat) : Word := v.rotateLeft n

/-! ### Byte order -/

/-- The big-endian word of two bytes: the first is the high byte (R61). -/
def wordOfBytes (first second : Byte) : Word := first ++ second

/-- The two bytes of a word, the high one first (R62). -/
def bytesOfWord (w : Word) : List Byte := [w.extractLsb' 8 8, w.extractLsb' 0 8]

/-! ### Byte spaces -/

/-- The byte stored at an offset, if one is. -/
def lookupCell : List Host.Cell → Nat → Option Byte
  | [], _ => none
  | (k, b) :: rest, a => if k = a then some b else lookupCell rest a

/-- Store a byte at an offset, keeping the offsets strictly rising. -/
def storeCell : List Host.Cell → Nat → Byte → List Host.Cell
  | [], a, b => [(a, b)]
  | (k, c) :: rest, a, b =>
    if a < k then (a, b) :: (k, c) :: rest
    else if a = k then (a, b) :: rest
    else (k, c) :: storeCell rest a b

/-- `MemRead(space, a, 1)`: the stored byte, or the draw of an unspecified one (R13, R46). -/
def readByte (p : Params) (m : Memory) (a : Nat) : Byte := (lookupCell m.cells a).getD (p.drawByte m.seed a)

/-- `MemWrite(space, a, 1, b)` (R13). -/
def writeByte (m : Memory) (a : Nat) (b : Byte) : Memory := { m with cells := storeCell m.cells a b }

/-- `MemRead(space, 0, n)`: the first `n` bytes in address order (R13). -/
def readBytes (p : Params) (m : Memory) (n : Nat) : List Byte := (List.range n).map (readByte p m)

/-- `MemWrite(space, a, n, v)`: the bytes of `v` in address order (R13). -/
def writeBytes (m : Memory) (a : Nat) : List Byte → Memory
  | [] => m
  | b :: bs => writeBytes (writeByte m a b) (a + 1) bs

/-- The canonical form of a space: the stored offsets rise strictly. -/
abbrev Memory.wf (m : Memory) : Prop := m.cells.Pairwise fun x y => x.1 < y.1

/-- How many bytes each space has (R35 to R41). -/
def capacity (p : Params) : Space → Nat
  | .msg => p.msgMax
  | .alpha => 256
  | .target => 16
  | .digest => 16
  | .idx => p.lMax
  | .cand => p.lMax
  | .result => p.lMax

/-- The space of that name. -/
def spaceOf (s : State) : Space → Memory
  | .msg => s.msg
  | .alpha => s.alpha
  | .target => s.target
  | .digest => s.digest
  | .idx => s.idx
  | .cand => s.cand
  | .result => s.result

/-! ### The enumerator's storage -/

/-- IDX and CAND become unspecified: each takes a draw number of its own (R39, R40, R172). -/
def forgetTuple (s : State) : State :=
  { s with
    idx := Memory.unspecified s.draws
    cand := Memory.unspecified (s.draws + 1)
    draws := s.draws + 2 }

/-- `STATUS.ESTATE <- NotStarted`, IDX and CAND unspecified: E.INIT, and every host write to ALPHA_N or TUPLE_L (R31, R32,
R172). -/
def restartEnumerator (s : State) : State := { forgetTuple s with estate := .notStarted }

/-! ### Exceptions -/

/-- IllegalCommand and BadParameter set STATUS.FAULT; SearchExhausted does not (R223, R228). -/
def setsFault : Exception → Bool
  | .searchExhausted => false
  | .illegalCommand => true
  | .badParameter => true

/-- `raise X(cw)`: CAUSE and XINFO are written, FAULT is set for two of the three, and the command ends. Nothing is saved,
nothing is vectored, no mode changes (R228); there is no return, because nothing was entered (R229). -/
def raise (x : Exception) (cw : Word) (s : State) : State :=
  { s with cause := some x, xinfo := cw, fault := s.fault || setsFault x }

end Sys2Proof.Machine
end

