-- ==== Sys2Proof/Machine/Operands.lean ====
section
/-! DEFINITION. The operands of the commands: the round index of the command word (spec/30_encoding.md R93) and the
registers and spaces a command reads (R90), with the checks of spec/60_exceptions.md R222. -/

namespace Sys2Proof.Machine

open Sys2Proof.Config

/-- The round index of a Format R command, when it is legal (R93). -/
def roundIndex (r : BitVec 4) : Option (Fin 10) :=
  if h : r.toNat < 10 then some ⟨r.toNat, h⟩ else none

/-- `P = MSG_LEN` (R30, R140). -/
def messageLength (s : State) : Nat := s.msgLen.toNat

/-- The input of HASH: `MSG[0..P−1]` (R37, R140). -/
def message (p : Params) (s : State) : List Byte := readBytes p s.msg (messageLength s)

/-- HASH's check fails: `MSG_LEN > MSG_MAX` (R140). -/
abbrev MessageTooLong (p : Params) (s : State) : Prop := p.msgMax < messageLength s

/-- `N = ALPHA_N` (R31, R171). -/
def alphabetSize (s : State) : Nat := s.alphaN.toNat

/-- `L = TUPLE_L` (R32, R171). -/
def tupleLength (s : State) : Nat := s.tupleL.toNat

/-- The check of E.NEXT and SEARCH fails: `N > 256` or `L = 0` or `L > L_MAX` (R171). -/
abbrev TupleParameterBad (p : Params) (s : State) : Prop :=
  256 < alphabetSize s ∨ tupleLength s = 0 ∨ p.lMax < tupleLength s

/-- `ALPHA[n]`, the symbol at an alphabet position (R38). -/
def symbol (p : Params) (s : State) (n : Nat) : Byte := readByte p s.alpha n

/-- The candidate of a tuple: slot k supplies byte k (R175). -/
def candidateOf (sym : Nat → Byte) (t : List Nat) : List Byte := t.map sym

/-- The tuple the enumerator stands at: `IDX[0..L−1]` (R39). -/
def currentTuple (p : Params) (s : State) : List Nat := (readBytes p s.idx (tupleLength s)).map BitVec.toNat

/-- The target digest `TARGET[0..15]` (R36, R190). -/
def targetBytes (p : Params) (s : State) : List Byte := readBytes p s.target 16

end Sys2Proof.Machine
end

