-- ==== Sys2Proof/Machine/Enumerator.lean ====
section
/-! DEFINITION. The odometer and the meanings of E.INIT and E.NEXT (spec/42_enumerator.md R170 to R178). -/

namespace Sys2Proof.Machine

open Sys2Proof.Config

/-- The tuple after `t` over an alphabet of `N` symbols: the least slot that stands below N − 1 is incremented and every
slot before it zeroed; none when every slot stands at N − 1 (R173). -/
def advance (N : Nat) (t : List Nat) : Option (List Nat) :=
  match t.findIdx? fun d => d + 1 < N with
  | some k => some (List.replicate k 0 ++ (t.getD k 0 + 1) :: t.drop (k + 1))
  | none => none

/-- The enumerator stands at the tuple `t`: IDX holds it, CAND holds its candidate, and the slots past it are unspecified
(R39, R40, R173, R175). -/
def emit (p : Params) (t : List Nat) (s : State) : State :=
  let f := forgetTuple s
  { f with
    estate := .atTuple
    idx := writeBytes f.idx 0 (t.map (BitVec.ofNat 8))
    cand := writeBytes f.cand 0 (candidateOf (symbol p s) t) }

/-- No tuple is left: ESTATE is Exhausted, IDX and CAND are unspecified (R39, R40, R173). -/
def exhaustTuples (s : State) : State := { forgetTuple s with estate := .exhausted }

/-- E.NEXT, whole (R171, R173, R178). -/
def nextTuple (p : Params) (s : State) : State :=
  if TupleParameterBad p s then raise .badParameter (encode .eNext) s
  else
    match s.estate with
    | .notStarted =>
      if alphabetSize s = 0 then exhaustTuples s else emit p (List.replicate (tupleLength s) 0) s
    | .atTuple =>
      match advance (alphabetSize s) (currentTuple p s) with
      | some t => emit p t s
      | none => exhaustTuples s
    | .exhausted => s

/-- E.INIT (R172). -/
def execEInit (s : State) : Host.Outcome State Fault Refusal := .next (restartEnumerator s)

/-- E.NEXT (R173). -/
def execENext (s : State) : Host.Outcome State Fault Refusal := .next (nextTuple Config.hw s)

end Sys2Proof.Machine
end

