-- ==== Sys2Proof/Machine/Permutation.lean ====
section
/-! DEFINITION. The five stages, the round and the permutation as functions of the matrix before them, and the meanings
of ST.CLR, THETA, RHO, PI, CHI, IOTA, ROUND and PERMUTE (spec/40_permutation.md R112 to R119). None raises an exception
and none touches anything but the lanes of H0. -/

namespace Sys2Proof.Machine

open Sys2Proof.Config

/-- ST.CLR: every lane zero, whatever the matrix held (R112). -/
def clearMatrix (_S : StateMatrix) : StateMatrix := StateMatrix.zero

/-- `c[i]`: the XOR of the five lanes whose first index is `i` (R113). -/
def parity (S : StateMatrix) (i : Fin 5) : Word :=
  lane S i 0 ^^^ lane S i 1 ^^^ lane S i 2 ^^^ lane S i 3 ^^^ lane S i 4

/-- `d[i] = c[(i+4) mod 5] XOR rotl16(c[(i+1) mod 5], 1)`; indices are of type `Fin 5`, so `+` is mod 5 (R113). -/
def thetaMask (S : StateMatrix) (i : Fin 5) : Word := parity S (i + 4) ^^^ rotl16 (parity S (i + 1)) 1

/-- THETA: `d[i]` is XORed into every lane with first index `i` (R113). -/
def thetaStage (S : StateMatrix) : StateMatrix := matrixOf fun i j => lane S i j ^^^ thetaMask S i

/-- RHO: lane `(i,j)` rotated left by `(7·i + j) mod 16` (R114). -/
def rhoStage (S : StateMatrix) : StateMatrix := matrixOf fun i j => rotl16 (lane S i j) ((7 * i.val + j.val) % 16)

/-- PI: lane `(a,b)` of the result is the lane `(b, 3·(a − 3·b) mod 5)` of the snapshot, which R115 moves there; modulo 5
that second index is `3·a + b`. -/
def piStage (S : StateMatrix) : StateMatrix := matrixOf fun a b => lane S b (3 * a + b)

/-- CHI: `S[i][j] XOR ((NOT S[(i+1) mod 5][j]) AND S[(i+2) mod 5][j])` (R116). -/
def chiStage (S : StateMatrix) : StateMatrix :=
  matrixOf fun i j => lane S i j ^^^ (~~~(lane S (i + 1) j) &&& lane S (i + 2) j)

/-- IOTA r: `A[0][0] <- A[0][0] XOR RC[r]` (R117). -/
def iotaStage (rc : Fin 10 → Word) (r : Fin 10) (S : StateMatrix) : StateMatrix := setLane S 0 0 (lane S 0 0 ^^^ rc r)

/-- ROUND r: theta, rho, pi, chi, iota in that order, each a whole pass (R118, R120). -/
def roundStage (rc : Fin 10 → Word) (r : Fin 10) (S : StateMatrix) : StateMatrix :=
  iotaStage rc r (chiStage (piStage (rhoStage (thetaStage S))))

/-- PERMUTE: rounds 0 to 9 in that order (R119). -/
def permuteStage (rc : Fin 10 → Word) (S : StateMatrix) : StateMatrix :=
  (List.finRange 10).foldl (fun A r => roundStage rc r A) S

/-- Apply a stage to the lanes of H0; everything else is kept. -/
def onLanes (f : StateMatrix → StateMatrix) (s : State) : State := { s with lanes := f s.lanes }

/-- ST.CLR (R112). -/
def execStClr (s : State) : Host.Outcome State Fault Refusal := .next (onLanes clearMatrix s)

/-- THETA (R113). -/
def execTheta (s : State) : Host.Outcome State Fault Refusal := .next (onLanes thetaStage s)

/-- RHO (R114). -/
def execRho (s : State) : Host.Outcome State Fault Refusal := .next (onLanes rhoStage s)

/-- PI (R115). -/
def execPi (s : State) : Host.Outcome State Fault Refusal := .next (onLanes piStage s)

/-- CHI (R116). -/
def execChi (s : State) : Host.Outcome State Fault Refusal := .next (onLanes chiStage s)

/-- A Format R command: with a legal round index its stage runs; an index of 10..15 makes the word illegal, so the word is
not executed and IllegalCommand is raised (R92, R95, R221; DEDUCED, log entry 14: the decoder never gives such a term). -/
def onRound (i : Instr) (r : BitVec 4) (f : Fin 10 → StateMatrix → StateMatrix) (s : State) : State :=
  match roundIndex r with
  | some k => onLanes (f k) s
  | none => raise .illegalCommand (encode i) s

/-- IOTA r (R117). -/
def execIota (r : BitVec 4) (s : State) : Host.Outcome State Fault Refusal :=
  .next (onRound (.iota r) r (iotaStage Config.hw.rc) s)

/-- ROUND r (R118). -/
def execRound (r : BitVec 4) (s : State) : Host.Outcome State Fault Refusal :=
  .next (onRound (.round r) r (roundStage Config.hw.rc) s)

/-- PERMUTE (R119). -/
def execPermute (s : State) : Host.Outcome State Fault Refusal := .next (onLanes (permuteStage Config.hw.rc) s)

end Sys2Proof.Machine
end

