-- ==== Sys2Proof/Machine/Hash.lean ====
section
/-! DEFINITION. Padding, absorption and squeeze, the pure function `hash`, and the meaning of HASH (spec/41_hash.md R140 to
R154). -/

namespace Sys2Proof.Machine

open Sys2Proof.Config

/-- `NB = floor(P/20) + 1` blocks (R141). -/
def blockCount (P : Nat) : Nat := P / 20 + 1

/-- `T = 20 · NB`, the padded length (R141). -/
def paddedLength (P : Nat) : Nat := 20 * blockCount P

/-- `PB(k)`: the input, then the marker 0x80 at offset P, then zeros (R142). -/
def paddedByte (x : List Byte) (k : Nat) : Byte :=
  if k < x.length then x.getD k 0 else if k = x.length then 0x80 else 0x00

/-- `w_b[k] = 256 · PB(20b + 2k) + PB(20b + 2k + 1)` (R144). -/
def blockWord (x : List Byte) (b k : Nat) : Word :=
  wordOfBytes (paddedByte x (20 * b + 2 * k)) (paddedByte x (20 * b + 2 * k + 1))

/-- Block `b` is XORed into the ten lanes of rows 0 and 1, word `5·i + j` into lane `(i,j)`; rows 2, 3 and 4 are kept
(R145). -/
def absorbBlock (x : List Byte) (b : Nat) (S : StateMatrix) : StateMatrix :=
  matrixOf fun i j => if i.val < 2 then lane S i j ^^^ blockWord x b (5 * i.val + j.val) else lane S i j

/-- The matrix after the last block's PERMUTE: zeroed once, then every block in input order absorbed and permuted, the
state carried forward (R146). -/
def absorbAll (rc : Fin 10 → Word) (x : List Byte) (S : StateMatrix) : StateMatrix :=
  (List.range (blockCount x.length)).foldl (fun A b => permuteStage rc (absorbBlock x b A)) (clearMatrix S)

/-- What a hash computation leaves: the digest and the matrix of its unit. -/
structure HashRun where
  digest : List Byte
  lanes : StateMatrix
  deriving DecidableEq, Repr

/-- The eight digest words: row 0 before the squeeze permutation, then three lanes of row 0 after it (R147). -/
def digestWords (A' A'' : StateMatrix) : List Word :=
  [lane A' 0 0, lane A' 0 1, lane A' 0 2, lane A' 0 3, lane A' 0 4, lane A'' 0 0, lane A'' 0 1, lane A'' 0 2]

/-- Squeeze: one more PERMUTE with nothing XORed in; the words go out high byte first (R147, R148). -/
def squeeze (rc : Fin 10 → Word) (A' : StateMatrix) : HashRun :=
  let A'' := permuteStage rc A'
  { digest := (digestWords A' A'').flatMap bytesOfWord, lanes := A'' }

/-- The whole computation on a hash unit whose matrix holds `S` before (R149). -/
def hashOn (rc : Fin 10 → Word) (S : StateMatrix) (x : List Byte) : HashRun := squeeze rc (absorbAll rc x S)

/-- The spec's pure function `hash` (R154), on a matrix of its own. -/
def hashOf (rc : Fin 10 → Word) (x : List Byte) : List Byte := (hashOn rc StateMatrix.zero x).digest

/-- HASH, whole: BadParameter when the message does not fit, and nothing else changes; otherwise DIGEST and DVALID are
written and H0 keeps the matrix after the squeeze (R140, R149, R153). -/
def hashCommand (p : Params) (s : State) : State :=
  if MessageTooLong p s then raise .badParameter (encode .hash) s
  else
    let run := hashOn p.rc s.lanes (message p s)
    { s with lanes := run.lanes, digest := writeBytes s.digest 0 run.digest, dvalid := true }

/-- HASH (R149). -/
def execHash (s : State) : Host.Outcome State Fault Refusal := .next (hashCommand Config.hw s)

end Sys2Proof.Machine
end

