-- ==== Sys2Proof/Machine/Search.lean ====
section
/-! DEFINITION. The worker machine and the meaning of SEARCH (spec/43_search.md R190 to R204). The workers take their steps
one at a time in the order a schedule gives; a schedule is any function, so every order in which each step is enabled is
some schedule's. -/

namespace Sys2Proof.Machine

open Sys2Proof.Config

/-- What the workers share and only read (R193): RC, the symbols, N, L and the target. -/
structure SearchInput where
  rc : Fin 10 → Word
  sym : Nat → Byte
  size : Nat
  length : Nat
  target : List Byte

/-- Every tuple of `[0,N)^L`, slot 0 fastest (R176, R190). -/
def allTuples (N : Nat) : Nat → List (List Nat)
  | 0 => [[]]
  | L + 1 => (allTuples N L).flatMap fun t => (List.range N).map fun d => d :: t

/-- The start of a search: nothing found, nothing claimed, W workers with no candidate; what their matrices hold does not
matter and is drawn (R192). -/
def startWorkers (p : Params) (n : Nat) : Workers where
  found := false
  slot := none
  claimed := []
  units := (List.range p.workers).map fun w =>
    { cur := none, halted := false, lanes := matrixOf fun i j => p.drawLane n w (5 * i.val + j.val) }

/-- When a step is enabled: claim in R195, eval in R196, drop and halt in R197. -/
def stepEnabled (e : SearchInput) (ws : Workers) : WorkerStep → Bool
  | .claim w t =>
    match ws.units[w]? with
    | some u => !u.halted && u.cur.isNone && !ws.found && (allTuples e.size e.length).contains t && !ws.claimed.contains t
    | none => false
  | .eval w =>
    match ws.units[w]? with
    | some u => u.cur.isSome
    | none => false
  | .drop w =>
    match ws.units[w]? with
    | some u => u.cur.isSome && ws.found
    | none => false
  | .halt w =>
    match ws.units[w]? with
    | some u =>
      !u.halted && u.cur.isNone && (ws.found || (allTuples e.size e.length).all fun t => ws.claimed.contains t)
    | none => false

/-- Worker `w` becomes `f` of what it was. -/
def onWorker (w : Nat) (f : Worker → Worker) (ws : Workers) : Workers := { ws with units := ws.units.modify w f }

/-- eval(w), one indivisible step: the candidate of the current tuple is hashed on the worker's own matrix; on a match the
slot is written if it is absent and the flag set; in every case the worker has no current tuple (R194, R196). -/
def evalStep (e : SearchInput) (w : Nat) (u : Worker) (t : List Nat) (ws : Workers) : Workers :=
  let c := candidateOf e.sym t
  let run := hashOn e.rc u.lanes c
  let after := onWorker w (fun v => { v with cur := none, lanes := run.lanes }) ws
  if run.digest = e.target then { after with found := true, slot := some (ws.slot.getD c) } else after

/-- The effect of an enabled step (R195 to R197). -/
def applyStep (e : SearchInput) (ws : Workers) : WorkerStep → Workers
  | .claim w t => { onWorker w (fun v => { v with cur := some t }) ws with claimed := t :: ws.claimed }
  | .eval w =>
    match ws.units[w]? with
    | some u =>
      match u.cur with
      | some t => evalStep e w u t ws
      | none => ws
    | none => ws
  | .drop w => onWorker w (fun v => { v with cur := none }) ws
  | .halt w => onWorker w (fun v => { v with halted := true }) ws

/-- Every step worker `w` could ever take. -/
def stepsOfWorker (e : SearchInput) (w : Nat) : List WorkerStep :=
  (allTuples e.size e.length).map (.claim w) ++ [.eval w, .drop w, .halt w]

/-- The steps enabled now. -/
def enabledSteps (e : SearchInput) (ws : Workers) : List WorkerStep :=
  ((List.range ws.units.length).flatMap (stepsOfWorker e)).filter (stepEnabled e ws)

/-- Every worker has halted (R198). -/
def allHalted (ws : Workers) : Bool := ws.units.all fun u => u.halted

/-- The enabled step a number selects, if any step is enabled. -/
def selectStep (steps : List WorkerStep) (n : Nat) : Option WorkerStep := steps[n % steps.length]?

/-- Take enabled steps, one at a time, as the schedule selects them, until every worker has halted (R198). -/
def runWorkers (e : SearchInput) (sched : Nat → Nat) : Nat → Nat → Workers → Workers
  | 0, _, ws => ws
  | fuel + 1, i, ws =>
    if allHalted ws then ws
    else
      match selectStep (enabledSteps e ws) (sched i) with
      | some st => runWorkers e sched fuel (i + 1) (applyStep e ws st)
      | none => ws

/-- No run has more steps than this: each of the N^L tuples is claimed at most once and then evaluated or dropped once,
and each worker halts once (R199). -/
def searchBound (p : Params) (e : SearchInput) : Nat := 2 * e.size ^ e.length + p.workers

/-- The operands of a SEARCH (R190). -/
def searchInput (p : Params) (s : State) : SearchInput where
  rc := p.rc
  sym := symbol p s
  size := alphabetSize s
  length := tupleLength s
  target := targetBytes p s

/-- The worker machine, from its start to the last halt, under the schedule of draw number `n`. -/
def searchRun (p : Params) (n : Nat) (s : State) : Workers :=
  runWorkers (searchInput p s) (p.schedule n) (searchBound p (searchInput p s)) 0 (startWorkers p n)

/-- The end of a SEARCH whose slot is `slot`: ELAPSED takes a draw; Found writes RESULT and RESULT_LEN; NotFound clears
RESULT_LEN, leaves RESULT unspecified and raises SearchExhausted as its last act (R41, R198, R228). -/
def finishSearch (p : Params) (slot : Option (List Byte)) (s : State) : State :=
  let ended := { s with elapsed := p.drawElapsed s.draws, result := Memory.unspecified s.draws, draws := s.draws + 1 }
  match slot with
  | some c =>
    { ended with result := writeBytes ended.result 0 c, resultLen := s.tupleL, sstate := .found }
  | none => raise .searchExhausted (encode .search) { ended with resultLen := 0, sstate := .notFound }

/-- SEARCH, whole (R198). -/
def searchCommand (p : Params) (s : State) : State :=
  if TupleParameterBad p s then raise .badParameter (encode .search) s
  else finishSearch p (searchRun p s.draws s).slot s

/-- SEARCH (R198). -/
def execSearch (s : State) : Host.Outcome State Fault Refusal := .next (searchCommand Config.hw s)

end Sys2Proof.Machine
end

