-- ==== Sys2Proof/Machine/Dispatch.lean ====
section
/-! DEFINITION. One arm per command (spec/30_encoding.md R94). -/

namespace Sys2Proof.Machine

def exec (i : Instr) (s : State) : Host.Outcome State Fault Refusal :=
  match i with
  | .stClr => Sys2Proof.Machine.execStClr s
  | .theta => Sys2Proof.Machine.execTheta s
  | .rho => Sys2Proof.Machine.execRho s
  | .pi => Sys2Proof.Machine.execPi s
  | .chi => Sys2Proof.Machine.execChi s
  | .iota r => Sys2Proof.Machine.execIota r s
  | .round r => Sys2Proof.Machine.execRound r s
  | .permute => Sys2Proof.Machine.execPermute s
  | .hash => Sys2Proof.Machine.execHash s
  | .eInit => Sys2Proof.Machine.execEInit s
  | .eNext => Sys2Proof.Machine.execENext s
  | .search => Sys2Proof.Machine.execSearch s

end Sys2Proof.Machine
end

