-- ==== Sys2Proof/Machine/Flags.lean ====
section
/-! DEFINITION. The words software sees in STATUS and CAUSE, computed from the fields State holds (spec/10_state.md R28,
R29). -/

namespace Sys2Proof.Machine

/-- The two-bit code of ESTATE; 3 is never produced (R28). -/
def estateCode : EState → BitVec 2
  | .notStarted => 0
  | .atTuple => 1
  | .exhausted => 2

/-- The two-bit code of SSTATE; 3 is never produced (R28). -/
def sstateCode : SState → BitVec 2
  | .none => 0
  | .found => 1
  | .notFound => 2

/-- STATUS: [1:0] ESTATE, [3:2] SSTATE, [4] DVALID, [5] FAULT, [15:6] zero (R28). -/
def statusWord (s : State) : Word :=
  (0 : BitVec 10) ++ BitVec.ofBool s.fault ++ BitVec.ofBool s.dvalid ++ sstateCode s.sstate ++ estateCode s.estate

/-- The code of an exception (R220). -/
def exceptionCode : Exception → Word
  | .searchExhausted => 1
  | .illegalCommand => 2
  | .badParameter => 3

/-- CAUSE: 0 while no exception has been raised since reset, else the code of the most recent one (R29). -/
def causeWord (s : State) : Word :=
  match s.cause with
  | none => 0
  | some x => exceptionCode x

end Sys2Proof.Machine
end

