-- ==== Sys2Proof/Machine/HostPort.lean ====
section
/-! DEFINITION. What each host action does (spec/10_state.md R27, R35 to R42, R47; spec/70_reset_and_hazards.md R250). -/

namespace Sys2Proof.Machine

open Sys2Proof.Config

/-- A write of `cw` to CMD: a legal word runs its command, any other raises IllegalCommand and changes nothing else (R27,
R95, R221, R227). -/
def issueCommand (cw : Word) (s : State) : Host.Outcome State Fault Refusal :=
  match decode cw with
  | .ok i => exec i s
  | .error _ => .next (raise .illegalCommand cw s)

/-- A host read of a register: CMD and unlisted numbers read as 0 (R27). -/
def readRegister (s : State) : Nat → BitVec 64
  | 0x01 => (statusWord s).setWidth 64
  | 0x02 => (causeWord s).setWidth 64
  | 0x03 => s.xinfo.setWidth 64
  | 0x04 => s.msgLen.setWidth 64
  | 0x05 => s.alphaN.setWidth 64
  | 0x06 => s.tupleL.setWidth 64
  | 0x07 => s.resultLen.setWidth 64
  | 0x08 => s.elapsed
  | _ => 0

/-- A host write of a register (R27, R30 to R32): read-only and unlisted registers ignore it. The value is taken to the
register's width (DESIGN CHOICE, log entry 11). -/
def writeRegister (v : BitVec 64) (s : State) : Nat → Host.Outcome State Fault Refusal
  | 0x00 => issueCommand (v.setWidth 16) s
  | 0x04 => .next { s with msgLen := v.setWidth 32 }
  | 0x05 => .next (restartEnumerator { s with alphaN := v.setWidth 16 })
  | 0x06 => .next (restartEnumerator { s with tupleL := v.setWidth 16 })
  | _ => .next s

/-- A host write of a byte: MSG, ALPHA and TARGET store it; the read-only spaces ignore it (R35 to R41; DEDUCED, log entry
12). -/
def writeSpace (sp : Space) (a : Nat) (b : Byte) (s : State) : State :=
  match sp with
  | .msg => { s with msg := writeByte s.msg a b }
  | .alpha => { s with alpha := writeByte s.alpha a b }
  | .target => { s with target := writeByte s.target a b }
  | .digest | .idx | .cand | .result => s

/-- The host receives a value; the machine is not changed (R68). -/
def receive (v : BitVec 64) (s : State) : State := { s with got := v :: s.got }

/-- Reset (R46, R250): the whole state becomes the reset state, with fresh draws for what is unspecified. What the host has
received and what it does next are the host's and are kept. -/
def hostReset (p : Params) (s : State) : State :=
  { State.resetWith p s.draws with pending := s.pending, got := s.got }

/-- One action of the host. A command cut off by a reset leaves nothing behind, so it is the reset alone (R250). -/
def hostAction (p : Params) (a : HostAction) (s : State) : Host.Outcome State Fault Refusal :=
  match a with
  | .setReg no v => writeRegister v s no
  | .getReg no => .next (receive (readRegister s no) s)
  | .setLane k v => .next { s with lanes := setLane s.lanes (laneRow k) (laneColumn k) v }
  | .getLane k => .next (receive ((lane s.lanes (laneRow k) (laneColumn k)).setWidth 64) s)
  | .setByte sp a b => if a < capacity p sp then .next (writeSpace sp a b s) else .fault (.noSuchElement sp a)
  | .getByte sp a =>
    if a < capacity p sp then .next (receive ((readByte p (spaceOf s sp) a).setWidth 64) s)
    else .fault (.noSuchElement sp a)
  | .reset => .next (hostReset p s)
  | .abort _ => .next (hostReset p s)

/-- The next action of the host, in list order (R100); with none the machine is idle and waits (R251). -/
def takeAction (p : Params) (s : State) : Host.Outcome State Fault Refusal :=
  match s.pending with
  | [] => .next s
  | a :: rest => hostAction p a { s with pending := rest }

end Sys2Proof.Machine
end

