-- ==== Sys2Proof/Machine/Step.lean ====
section
/-! DEFINITION. One step of the host-visible machine is one host action, and a command runs whole inside it
(spec/00_scope.md R10, spec/10_state.md R47). -/

namespace Sys2Proof.Machine

/-- One step. -/
def step (s : State) : Host.Outcome State Fault Refusal := takeAction Config.hw s

/-- `s` with a write of the command word `w` to CMD as the host's next action: where the next command comes from, since the
hardware fetches nothing (R25, R75, R90; log entry 1). -/
def State.withFetchWord (s : State) (_nbits w : Nat) : State :=
  { s with pending := .setReg 0x00 (BitVec.ofNat 64 w) :: s.pending }

end Sys2Proof.Machine
end

