-- ==== Sys2Proof/Machine/Assembler.lean ====
section
/-! DEFINITION. Assembler statements, the four pseudo-instructions and programs, as the host actions they stand for
(spec/30_encoding.md R97, R98, R100). Text is a list of characters. -/

namespace Sys2Proof.Machine

/-! ### Pseudo-instructions (R98) -/

/-- `SET SPACE[k] = <byte k>` for every byte in order. -/
def setBytes (sp : Space) (bs : List Byte) : List HostAction := bs.mapIdx fun k b => .setByte sp k b

/-- LOADMSG: the bytes, then `SET MSG_LEN = n` (R98). -/
def loadMsg (bs : List Byte) : List HostAction := setBytes .msg bs ++ [.setReg 0x04 (BitVec.ofNat 64 bs.length)]

/-- LOADALPHA: the symbols, then `SET ALPHA_N = n` (R98). -/
def loadAlpha (bs : List Byte) : List HostAction := setBytes .alpha bs ++ [.setReg 0x05 (BitVec.ofNat 64 bs.length)]

/-- LOADTARGET: the sixteen bytes of a digest (R98). -/
def loadTarget (bs : List Byte) : Option (List HostAction) :=
  if bs.length = 16 then some (setBytes .target bs) else none

/-- LOADSTATE: the 25 lanes in the order (0,0), (0,1), .., (4,4) (R98). -/
def loadState (ws : List Word) : Option (List HostAction) :=
  if ws.length = 25 then some ((List.finRange 25).map fun k => .setLane k (ws.getD k.val 0)) else none

/-! ### Statements (R97) -/

/-- What a line is made of: words without blanks, and quoted strings. -/
inductive Token where
  | word (cs : List Char)
  | text (cs : List Char)
  deriving DecidableEq, Repr

/-- The quotation mark. -/
def quoteChar : Char := Char.ofNat 34

/-- The word collected so far (its characters in reverse), if it has any. -/
def flushWord (cur : List Char) : List Token := if cur.isEmpty then [] else [.word cur.reverse]

/-- Split a line at blanks; a semicolon starts a comment that runs to the end of the line (R97). A semicolon inside
quotation marks is a character of the string and starts no comment: R97 and R98 do not say which holds there (DESIGN CHOICE,
log entry 23). -/
def scanLine (quoted : Bool) (cur : List Char) : List Char → Option (List Token)
  | [] => if quoted then none else some (flushWord cur)
  | c :: cs =>
    if quoted then
      if c = quoteChar then (scanLine false [] cs).map (.text cur.reverse :: ·) else scanLine true (c :: cur) cs
    else if c = ';' then some (flushWord cur)
    else if c = ' ' || c = '\t' then (scanLine false [] cs).map (flushWord cur ++ ·)
    else if c = quoteChar then if cur.isEmpty then scanLine true [] cs else none
    else scanLine false (c :: cur) cs

/-- The value of a digit in a base up to sixteen. -/
def digitValue (base : Nat) (c : Char) : Option Nat :=
  let n := c.toNat
  let v := if 48 ≤ n ∧ n ≤ 57 then n - 48
    else if 65 ≤ n ∧ n ≤ 70 then n - 55
    else if 97 ≤ n ∧ n ≤ 102 then n - 87
    else base
  if v < base then some v else none

/-- Read digits onto a number already begun. -/
def readDigits (base acc : Nat) : List Char → Option Nat
  | [] => some acc
  | c :: cs => (digitValue base c).bind fun d => readDigits base (base * acc + d) cs

/-- "Values are decimal, or hexadecimal with the prefix 0x" (R97). -/
def readValue : List Char → Option Nat
  | [] => none
  | '0' :: 'x' :: c :: cs => readDigits 16 0 (c :: cs)
  | c :: cs => readDigits 10 0 (c :: cs)

/-- A byte in a pseudo-instruction's list: two hexadecimal digits (DEDUCED, log entry 20). -/
def readHexByte : Token → Option Byte
  | .word [a, b] => (readDigits 16 0 [a, b]).map (BitVec.ofNat 8)
  | _ => none

/-- A word in LOADSTATE's list: a value below 65536 (R98). -/
def readWord : Token → Option Word
  | .word cs => (readValue cs).bind fun n => if n < 65536 then some (BitVec.ofNat 16 n) else none
  | .text _ => none

/-- The ASCII byte of a character (R98). -/
def asciiByte (c : Char) : Option Byte := if c.toNat < 128 then some (BitVec.ofNat 8 c.toNat) else none

/-- The bytes of a pseudo-instruction: one quoted string, or two-digit bytes (R98). -/
def readByteList : List Token → Option (List Byte)
  | [.text cs] => cs.mapM asciiByte
  | ts => ts.mapM readHexByte

/-- What `SET` and `GET` name: a register, a lane, or a byte of a space (R97). -/
inductive Place where
  | reg (no : Nat)
  | lane (k : Fin 25)
  | byte (sp : Space) (offset : Nat)
  deriving DecidableEq, Repr

/-- The register names (R27). -/
def registerNames : List (List Char × Nat) :=
  [("CMD".toList, 0), ("STATUS".toList, 1), ("CAUSE".toList, 2), ("XINFO".toList, 3), ("MSG_LEN".toList, 4),
   ("ALPHA_N".toList, 5), ("TUPLE_L".toList, 6), ("RESULT_LEN".toList, 7), ("ELAPSED".toList, 8)]

/-- The names of the byte spaces (R35 to R41). -/
def spaceNames : List (List Char × Space) :=
  [("MSG".toList, .msg), ("ALPHA".toList, .alpha), ("TARGET".toList, .target), ("DIGEST".toList, .digest),
   ("IDX".toList, .idx), ("CAND".toList, .cand), ("RESULT".toList, .result)]

/-- The LANE number of a list of subscripts: `LANE[k]`, or `LANE[i][j]` meaning `LANE[5·i + j]` (R42, R97). -/
def laneNumber : List Nat → Option (Fin 25)
  | [k] => if h : k < 25 then some ⟨k, h⟩ else none
  | [i, j] => if h : i < 5 ∧ j < 5 then some ⟨5 * i + j, by omega⟩ else none
  | _ => none

/-- A subscript: what follows an opening bracket, decimal digits and the closing bracket. R97 gives values two notations and
subscripts none; a subscript is decimal only (DESIGN CHOICE, log entry 23). -/
def readSubscript (sub : List Char) : Option Nat :=
  match sub.reverse with
  | ']' :: ds => if ds.isEmpty then none else readDigits 10 0 ds.reverse
  | _ => none

/-- Split `NAME[k][l]` into the name and its subscripts. -/
def splitPlace (cs : List Char) : Option (List Char × List Nat) :=
  match cs.splitOn '[' with
  | [] => none
  | name :: subs => (subs.mapM readSubscript).map fun ks => (name, ks)

/-- A place (R97). -/
def readPlace (cs : List Char) : Option Place :=
  (splitPlace cs).bind fun (name, subs) =>
    match subs with
    | [] => (registerNames.lookup name).map .reg
    | _ =>
      if name = "LANE".toList then (laneNumber subs).map .lane
      else
        match subs with
        | [k] => (spaceNames.lookup name).map fun sp => .byte sp k
        | _ => none

/-- A host write of a value to a place (R97). -/
def setPlace (pl : Place) (n : Nat) : Option HostAction :=
  match pl with
  | .reg no => if n < 2 ^ 64 then some (.setReg no (BitVec.ofNat 64 n)) else none
  | .lane k => if n < 65536 then some (.setLane k (BitVec.ofNat 16 n)) else none
  | .byte sp a => if n < 256 then some (.setByte sp a (BitVec.ofNat 8 n)) else none

/-- A host read of a place (R97). -/
def getPlace : Place → HostAction
  | .reg no => .getReg no
  | .lane k => .getLane k
  | .byte sp a => .getByte sp a

/-- `GET a .. GET b`: the host reads of every element from one to the other, in order (spec/95_test_vectors.md P2; DEDUCED,
log entry 20). -/
def getRange (first last : Place) : Option (List HostAction) :=
  match first, last with
  | .byte sp i, .byte sp' j =>
    if sp = sp' ∧ i ≤ j then some ((List.range (j + 1 - i)).map fun k => .getByte sp (i + k)) else none
  | .lane i, .lane j =>
    if i ≤ j then some (((List.finRange 25).filter fun k => i ≤ k && k ≤ j).map .getLane) else none
  | _, _ => none

/-- The mnemonics of the Format N commands (R94). -/
def formatNNames : List (List Char × Instr) :=
  [("ST.CLR".toList, .stClr), ("THETA".toList, .theta), ("RHO".toList, .rho), ("PI".toList, .pi), ("CHI".toList, .chi),
   ("PERMUTE".toList, .permute), ("HASH".toList, .hash), ("E.INIT".toList, .eInit), ("E.NEXT".toList, .eNext),
   ("SEARCH".toList, .search)]

/-- The mnemonics of the Format R commands (R94). -/
def formatRNames : List (List Char × (BitVec 4 → Instr)) := [("IOTA".toList, .iota), ("ROUND".toList, .round)]

/-- A command statement is a write of its word to CMD (R97, R100). -/
def commandAction (i : Instr) : HostAction := .setReg 0x00 ((encode i).setWidth 64)

/-- `IOTA r` or `ROUND r`: the round index is one decimal digit 0..9 (R97). -/
def formatRStatement (m : List Char) (arg : List Char) : Option (List HostAction) :=
  match formatRNames.lookup m, arg with
  | some mk, [d] => (digitValue 10 d).map fun r => [commandAction (mk (BitVec.ofNat 4 r))]
  | _, _ => none

/-- A statement that is neither `SET` nor `GET` nor a Format R command: a pseudo-instruction with its list (R98). -/
def pseudoStatement (m : List Char) (ts : List Token) : Option (List HostAction) :=
  if m = "LOADMSG".toList then (readByteList ts).map loadMsg
  else if m = "LOADALPHA".toList then (readByteList ts).map loadAlpha
  else if m = "LOADTARGET".toList then (readByteList ts).bind loadTarget
  else if m = "LOADSTATE".toList then (ts.mapM readWord).bind loadState
  else none

/-- The host actions of a statement's tokens; an empty line has none. -/
def statementActions : List Token → Option (List HostAction)
  | [] => some []
  | [.word m] =>
    match formatNNames.lookup m with
    | some i => some [commandAction i]
    | none => pseudoStatement m []
  | [.word m, .word arg] =>
    if m = "GET".toList then (readPlace arg).map fun pl => [getPlace pl]
    else
      match formatRStatement m arg with
      | some as => some as
      | none => pseudoStatement m [.word arg]
  | [.word m, .word pl, .word eq, .word v] =>
    if m = "SET".toList ∧ eq = ['='] then
      (readPlace pl).bind fun q => (readValue v).bind fun n => (setPlace q n).map fun a => [a]
    else pseudoStatement m [.word pl, .word eq, .word v]
  | [.word m, .word pl, .word dots, .word m', .word pl'] =>
    if m = "GET".toList ∧ dots = ['.', '.'] ∧ m' = "GET".toList then
      (readPlace pl).bind fun q => (readPlace pl').bind fun q' => getRange q q'
    else pseudoStatement m [.word pl, .word dots, .word m', .word pl']
  | .word m :: ts => pseudoStatement m ts
  | .text _ :: _ => none

/-- One line of assembler text (R97). -/
def assembleLine (line : List Char) : Option (List HostAction) := (scanLine false [] line).bind statementActions

/-- A program: the actions of its lines in list order (R100). -/
def assembleProgram (lines : List (List Char)) : Option (List HostAction) :=
  (lines.mapM assembleLine).map List.flatten

/-- The host is about to perform a program (R100). -/
def State.withProgram (s : State) (prog : List HostAction) : State := { s with pending := prog ++ s.pending }

end Sys2Proof.Machine
end

