-- ==== Sys2Proof/Safety.lean ====
section
/-! DEFINITION. The terms in which claims are made: the invariants of the machine and of a running search, what a frame
keeps, and the arithmetic forms in which the spec writes its functions. -/

namespace Sys2Proof.Machine

open Sys2Proof.Config

/-! ### The invariant of the machine -/

/-- The byte at an offset of a space, as a read of it answers. -/
def byteAt (p : Params) (s : State) (sp : Space) (a : Nat) : Byte := readByte p (spaceOf s sp) a

/-- Every space is in canonical form and stores nothing outside its capacity (R35 to R41, R65). -/
def SpacesWf (p : Params) (s : State) : Prop :=
  ∀ sp, (spaceOf s sp).wf ∧ ∀ c ∈ (spaceOf s sp).cells, c.1 < capacity p sp

/-- "When ESTATE = At, slots 0..L−1 hold the current tuple and every IDX[k] < N", and CAND holds a byte for each (R39,
R40). -/
def TupleHeld (p : Params) (s : State) : Prop :=
  s.estate = .atTuple →
    ¬TupleParameterBad p s ∧
      ∀ k < tupleLength s, (∃ b, lookupCell s.idx.cells k = some b ∧ b.toNat < alphabetSize s) ∧
        (lookupCell s.cand.cells k).isSome

/-- RESULT holds a byte for each of its RESULT_LEN offsets while SSTATE is Found, and RESULT_LEN is 0 otherwise (R33,
R41). -/
def ResultHeld (p : Params) (s : State) : Prop :=
  (s.sstate = .found →
    1 ≤ s.resultLen.toNat ∧ s.resultLen.toNat ≤ p.lMax ∧
      ∀ k < s.resultLen.toNat, (lookupCell s.result.cells k).isSome) ∧
  (s.sstate ≠ .found → s.resultLen = 0)

/-- DIGEST holds sixteen bytes once DVALID is set, and is unspecified before (R28, R35, R46). -/
def DigestHeld (s : State) : Prop :=
  if s.dvalid then ∀ k < 16, (lookupCell s.digest.cells k).isSome else s.digest.cells = []

/-- CAUSE, XINFO and FAULT agree (R28, R29, R220, R228). -/
def ExceptionHeld (s : State) : Prop :=
  match s.cause with
  | none => s.xinfo = 0 ∧ s.fault = false ∧ s.sstate ≠ .notFound
  | some .searchExhausted => s.xinfo = 0x3000
  | some .illegalCommand => s.fault = true ∧ ∀ i, decode s.xinfo ≠ .ok i
  | some .badParameter => s.fault = true ∧ (s.xinfo = 0x1000 ∨ s.xinfo = 0x2100 ∨ s.xinfo = 0x3000)

/-- The invariant every step keeps. -/
def Inv (p : Params) (s : State) : Prop :=
  SpacesWf p s ∧ TupleHeld p s ∧ ResultHeld p s ∧ DigestHeld s ∧ ExceptionHeld s

/-- The draw numbers the spaces read their unspecified bytes from. -/
def seedsOf (s : State) : List Nat :=
  [s.msg.seed, s.alpha.seed, s.target.seed, s.digest.seed, s.idx.seed, s.cand.seed, s.result.seed]

/-- No draw number is used for two spaces, and none is used again (log entry 2). -/
def DrawsFresh (s : State) : Prop := (seedsOf s).Nodup ∧ ∀ n ∈ seedsOf s, n < s.draws

/-- From `s` to `t` draw numbers only go forward: the next number does not fall, and each space either keeps its number and
every byte it stores stays stored, or takes a number not used before `s` ended (log entry 2). -/
def DrawsAdvance (s t : State) : Prop :=
  s.draws ≤ t.draws ∧
  ∀ sp, ((spaceOf t sp).seed = (spaceOf s sp).seed ∧
      ∀ a, (lookupCell (spaceOf s sp).cells a).isSome = true → (lookupCell (spaceOf t sp).cells a).isSome = true) ∨
    s.draws ≤ (spaceOf t sp).seed

/-! ### Frames -/

/-- STATUS unchanged. -/
def KeepsStatus (s t : State) : Prop :=
  t.estate = s.estate ∧ t.sstate = s.sstate ∧ t.dvalid = s.dvalid ∧ t.fault = s.fault

/-- CAUSE and XINFO unchanged. -/
def KeepsException (s t : State) : Prop := t.cause = s.cause ∧ t.xinfo = s.xinfo

/-- MSG_LEN, ALPHA_N and TUPLE_L unchanged. -/
def KeepsOperands (s t : State) : Prop := t.msgLen = s.msgLen ∧ t.alphaN = s.alphaN ∧ t.tupleL = s.tupleL

/-- RESULT_LEN and ELAPSED unchanged. -/
def KeepsResults (s t : State) : Prop := t.resultLen = s.resultLen ∧ t.elapsed = s.elapsed

/-- The host's own fields unchanged. -/
def KeepsHost (s t : State) : Prop := t.pending = s.pending ∧ t.got = s.got

/-- Every byte of every space in `keep` reads as before, whatever the free values are. -/
def KeepsBytes (keep : Space → Bool) (s t : State) : Prop :=
  ∀ p sp a, keep sp = true → byteAt p t sp a = byteAt p s sp a

/-- Neither IDX nor CAND: the spaces the enumerator does not write (R66). -/
def notTupleSpace : Space → Bool
  | .idx | .cand => false
  | .msg | .alpha | .target | .digest | .result => true

/-- Not RESULT: the spaces SEARCH does not write (R66, R204). -/
def notResultSpace : Space → Bool
  | .result => false
  | .msg | .alpha | .target | .digest | .idx | .cand => true

/-- Not DIGEST: the spaces HASH does not write (R66). -/
def notDigestSpace : Space → Bool
  | .digest => false
  | .msg | .alpha | .target | .idx | .cand | .result => true

/-- Everything but the lanes, byte by byte. -/
def KeepsAllButLanes (s t : State) : Prop :=
  KeepsStatus s t ∧ KeepsException s t ∧ KeepsOperands s t ∧ KeepsResults s t ∧ KeepsHost s t ∧
    KeepsBytes (fun _ => true) s t

/-- `raise X(cw)` and nothing else: CAUSE, XINFO and FAULT as R228 says, all other state as before. -/
def OnlyRaises (x : Exception) (cw : Word) (s t : State) : Prop :=
  t.cause = some x ∧ t.xinfo = cw ∧ t.fault = (s.fault || setsFault x) ∧
  t.estate = s.estate ∧ t.sstate = s.sstate ∧ t.dvalid = s.dvalid ∧
  t.lanes = s.lanes ∧ KeepsOperands s t ∧ KeepsResults s t ∧ KeepsHost s t ∧ KeepsBytes (fun _ => true) s t

/-! ### Host actions a whole-machine rule speaks of -/

/-- The host's next action resets the hardware (R250). -/
def nextIsReset (s : State) : Bool :=
  match s.pending with
  | .reset :: _ | .abort _ :: _ => true
  | _ => false

/-- The command word the host's next action writes to CMD, if it writes one (R27): the low 16 bits of the value (DESIGN
CHOICE, log entry 11). -/
def nextCommand (s : State) : Option Word :=
  match s.pending with
  | .setReg 0 v :: _ => some (v.setWidth 16)
  | _ => none

/-- The host's next action stores a lane. -/
def nextSetsLane (s : State) : Bool :=
  match s.pending with
  | .setLane _ _ :: _ => true
  | _ => false

/-! ### The spec's arithmetic forms -/

/-- `rotl16(v, n)` as R12 writes it, for 0 ≤ n ≤ 15. -/
def rotlArith (v : Word) (n : Nat) : Nat :=
  if n = 0 then v.toNat else v.toNat * 2 ^ n % 65536 + v.toNat / 2 ^ (16 - n)

/-- A natural number modulo 5, as a lane index (R110). -/
def mod5 (n : Nat) : Fin 5 := ⟨n % 5, Nat.mod_lt _ (by decide)⟩

/-- The round index of a Format R command as the field of its word (R93). -/
def roundArg (k : Fin 10) : BitVec 4 := BitVec.ofNat 4 k.val

/-- The 30 legal words of R94 and R95, written out (spec/95_test_vectors.md V27). -/
def legalWords : List Word :=
  [0x0100, 0x0200, 0x0300, 0x0400, 0x0500,
   0x0600, 0x0601, 0x0602, 0x0603, 0x0604, 0x0605, 0x0606, 0x0607, 0x0608, 0x0609,
   0x0700, 0x0701, 0x0702, 0x0703, 0x0704, 0x0705, 0x0706, 0x0707, 0x0708, 0x0709,
   0x0800, 0x1000, 0x2000, 0x2100, 0x3000]

/-- The words whose command writes lanes of H0 (R24): ST.CLR to PERMUTE, and HASH. -/
def laneWords : List Word :=
  legalWords.filter fun w => decide (w.toNat < 0x0900) || w == 0x1000

/-- The whole padded stream of R142. -/
def paddedStream (x : List Byte) : List Byte := (List.range (paddedLength x.length)).map (paddedByte x)

/-- The slots of tuple number `t`: `IDX[k] = floor(t / N^k) mod N` (R176). -/
def tupleNumber (N L t : Nat) : List Nat := (List.range L).map fun k => t / N ^ k % N

/-- `Cands`: the byte sequences of length L whose every byte is the symbol of some alphabet position (R190). -/
def IsCandidate (p : Params) (s : State) (c : List Byte) : Prop :=
  c.length = tupleLength s ∧ ∀ b ∈ c, ∃ n < alphabetSize s, b = byteAt p s .alpha n

/-- `M`: the candidates whose digest is the target (R191). -/
def IsMatch (p : Params) (s : State) (c : List Byte) : Prop :=
  IsCandidate p s c ∧ hashOf p.rc c = (List.range 16).map (byteAt p s .target)

/-- What holds of the workers at every moment of a search: the flag and the slot agree (R194), no tuple is handed out
twice and every one handed out is a tuple of the space (R195), each worker's tuple was handed out to it alone, the slot
holds the matching candidate of a claimed tuple (R196), and while it is absent every claimed tuple is still held by a worker
or was evaluated without a match (R196, R197). -/
def WorkersInv (e : SearchInput) (ws : Workers) : Prop :=
  (ws.found = true ↔ ws.slot.isSome = true) ∧
  ws.claimed.Nodup ∧
  (∀ t ∈ ws.claimed, t.length = e.length ∧ ∀ d ∈ t, d < e.size) ∧
  (∀ u ∈ ws.units, ∀ t, u.cur = some t → t ∈ ws.claimed ∧ u.halted = false) ∧
  (∀ (v w : Nat) (t : List Nat), (ws.units[v]?.bind Worker.cur) = some t → (ws.units[w]?.bind Worker.cur) = some t → v = w) ∧
  (∀ c, ws.slot = some c → ∃ t ∈ ws.claimed, c = t.map e.sym ∧ hashOf e.rc c = e.target) ∧
  (ws.slot = none →
    ∀ t ∈ ws.claimed, (∃ u ∈ ws.units, u.cur = some t) ∨ hashOf e.rc (t.map e.sym) ≠ e.target)

end Sys2Proof.Machine
end

