-- ==== Sys2Proof/Certificates/Slice0/Obligations.lean ====
section
/-! DEFINITION. The statements for the provers, in the order of OBLIGATIONS.json. -/

open Sys2Proof Sys2Proof.Machine

/-! ### Encoding (spec/30_encoding.md) -/

/-- One word of every command, written bit by bit from R90 to R94, decodes to it. -/
def Obligations.CommandWordsDecodeAsListed : Prop :=
  decode 0b0000000100000000#16 = .ok .stClr ∧
  decode 0b0000001000000000#16 = .ok .theta ∧
  decode 0b0000001100000000#16 = .ok .rho ∧
  decode 0b0000010000000000#16 = .ok .pi ∧
  decode 0b0000010100000000#16 = .ok .chi ∧
  decode 0b0000011000001001#16 = .ok (.iota 0b1001#4) ∧
  decode 0b0000011100000011#16 = .ok (.round 0b0011#4) ∧
  decode 0b0000100000000000#16 = .ok .permute ∧
  decode 0b0001000000000000#16 = .ok .hash ∧
  decode 0b0010000000000000#16 = .ok .eInit ∧
  decode 0b0010000100000000#16 = .ok .eNext ∧
  decode 0b0011000000000000#16 = .ok .search ∧
  decode 0b0000011000001010#16 = .error (.roundIndexTooLarge 0b1010#4) ∧
  decode 0b0000011100010011#16 = .error (.upperArgumentNotZero 0b0001#4) ∧
  decode 0b0001000000000001#16 = .error (.argumentNotZero 0b00000001#8) ∧
  decode 0b0000000000000000#16 = .error (.unknownOpcode 0#8)

/-- Decode of encode is the instruction, at every legal round index. -/
def Obligations.EncodedInstructionDecodesToItself : Prop :=
  ∀ i, wellFormed i = true → decode (encode i) = .ok i

/-- A word that decodes is the command word of what it decodes to: no word but that one selects the command. -/
def Obligations.LegalWordIsItsInstructionsWord : Prop :=
  ∀ w i, decode w = .ok i → encode i = w ∧ wellFormed i = true

/-- R95: exactly the 30 listed words are legal, and every other word is illegal. -/
def Obligations.ExactlyThirtyWordsAreLegal : Prop :=
  legalWords.length = 30 ∧ legalWords.Nodup ∧ ∀ w, (∃ i, decode w = .ok i) ↔ w ∈ legalWords

/-! ### A step (spec/00_scope.md R10, spec/10_state.md R27) -/

/-- R27, R90, R100: when the host's next action writes a legal word to CMD, the step is exec of its instruction, with that
action taken off the host's list. R251: when the host has no action, the machine idles. The model's own: the list of
actions (log entry 1), that the word is the low 16 bits of a wider value (log entry 11, DESIGN CHOICE), and that idling
leaves the state as it is (log entry 17, DEDUCED). -/
def Obligations.StepRunsTheDecodedCommand : Prop :=
  (∀ s v rest i, s.pending = .setReg 0 v :: rest → decode (v.setWidth 16) = .ok i →
    step s = exec i { s with pending := rest }) ∧
  (∀ s, s.pending = [] → step s = .next s)

/-- R221: an illegal word is not executed; only FAULT, CAUSE and XINFO change. That the word is the low 16 bits of a wider
value written to CMD is the model's own (log entry 11, DESIGN CHOICE). -/
def Obligations.IllegalWordOnlyRaises : Prop :=
  ∀ s v rest, s.pending = .setReg 0 v :: rest → (v.setWidth 16 : Word) ∉ legalWords →
    ∃ t, step s = .next t ∧ OnlyRaises .illegalCommand (v.setWidth 16) { s with pending := rest } t

/-! ### StateMatrix and RoundFunction (spec/40_permutation.md) -/

/-- R12, R111: `rotl16` is the arithmetic rotation, and moves bit k to bit (k + n) mod 16. -/
def Obligations.RotationIsTheArithmeticOne : Prop :=
  ∀ (v : Word) (n : Nat), n < 16 →
    (rotl16 v n).toNat = rotlArith v n ∧ ∀ k, k < 16 → (rotl16 v n).getLsbD ((k + n) % 16) = v.getLsbD k

/-- R112: ST.CLR zeroes every lane, whatever the state was, and changes nothing else. -/
def Obligations.StClrZeroesEveryLane : Prop :=
  decode 0x0100 = .ok .stClr ∧
  ∀ s, ∃ t, exec .stClr s = .next t ∧ (∀ i j, lane t.lanes i j = 0) ∧ KeepsAllButLanes s t

/-- R113: THETA, with its five masks written out. -/
def Obligations.ThetaXorsNeighbourParities : Prop :=
  ∀ s, ∃ t, exec .theta s = .next t ∧
    (∀ c : Fin 5 → Word,
      (∀ i, c i = lane s.lanes i 0 ^^^ lane s.lanes i 1 ^^^ lane s.lanes i 2 ^^^ lane s.lanes i 3 ^^^ lane s.lanes i 4) →
      ∀ j, lane t.lanes 0 j = lane s.lanes 0 j ^^^ (c 4 ^^^ BitVec.ofNat 16 (rotlArith (c 1) 1)) ∧
        lane t.lanes 1 j = lane s.lanes 1 j ^^^ (c 0 ^^^ BitVec.ofNat 16 (rotlArith (c 2) 1)) ∧
        lane t.lanes 2 j = lane s.lanes 2 j ^^^ (c 1 ^^^ BitVec.ofNat 16 (rotlArith (c 3) 1)) ∧
        lane t.lanes 3 j = lane s.lanes 3 j ^^^ (c 2 ^^^ BitVec.ofNat 16 (rotlArith (c 4) 1)) ∧
        lane t.lanes 4 j = lane s.lanes 4 j ^^^ (c 3 ^^^ BitVec.ofNat 16 (rotlArith (c 0) 1))) ∧
    KeepsAllButLanes s t

/-- R114: RHO rotates lane (i,j) left by (7·i + j) mod 16. -/
def Obligations.RhoRotatesEachLane : Prop :=
  decode 0x0300 = .ok .rho ∧
  ∀ s, ∃ t, exec .rho s = .next t ∧
    (∀ i j : Fin 5, (lane t.lanes i j).toNat = rotlArith (lane s.lanes i j) ((7 * i.val + j.val) % 16)) ∧
    KeepsAllButLanes s t

/-- R115: PI moves lane (i,j) to ((3·i + 2·j) mod 5, i); no two lanes go to one place, and only (0,0) stays. -/
def Obligations.PiRelocatesEachLane : Prop :=
  decode 0x0400 = .ok .pi ∧
  (∀ s, ∃ t, exec .pi s = .next t ∧
    (∀ i j : Fin 5, lane t.lanes (mod5 (3 * i.val + 2 * j.val)) i = lane s.lanes i j) ∧ KeepsAllButLanes s t) ∧
  (∀ i j k l : Fin 5, mod5 (3 * i.val + 2 * j.val) = mod5 (3 * k.val + 2 * l.val) → i = k → j = l) ∧
  (∀ i j : Fin 5, mod5 (3 * i.val + 2 * j.val) = i → i = j → i = 0)

/-- R116: CHI, with NOT a = 0xFFFF − a. -/
def Obligations.ChiMixesEachLane : Prop :=
  decode 0x0500 = .ok .chi ∧
  ∀ s, ∃ t, exec .chi s = .next t ∧
    (∀ i j : Fin 5, lane t.lanes i j = lane s.lanes i j ^^^
      (BitVec.ofNat 16 (0xFFFF - (lane s.lanes (mod5 (i.val + 1)) j).toNat) &&& lane s.lanes (mod5 (i.val + 2)) j)) ∧
    KeepsAllButLanes s t

/-- R117: IOTA r XORs RC[r] into lane (0,0) and no other; twice, it restores the lanes; a word with r of 10 to 15 is no
IOTA. -/
def Obligations.IotaXorsItsConstant : Prop :=
  (∀ k : Fin 10, decode (BitVec.ofNat 16 (0x0600 + k.val)) = .ok (.iota (roundArg k))) ∧
  (∀ r, 10 ≤ r → r < 16 → ∀ i, decode (BitVec.ofNat 16 (0x0600 + r)) ≠ .ok i) ∧
  ∀ (k : Fin 10) s, ∃ t u, exec (.iota (roundArg k)) s = .next t ∧
    lane t.lanes 0 0 = lane s.lanes 0 0 ^^^ Config.hw.rc k ∧
    (∀ i j, ¬(i = 0 ∧ j = 0) → lane t.lanes i j = lane s.lanes i j) ∧ KeepsAllButLanes s t ∧
    exec (.iota (roundArg k)) t = .next u ∧ u.lanes = s.lanes

/-- R118: ROUND r is THETA, RHO, PI, CHI, IOTA r issued in that order; from the zero matrix it leaves RC[r] in lane (0,0)
and zero elsewhere. -/
def Obligations.RoundIsTheFiveStagesInOrder : Prop :=
  (∀ k : Fin 10, decode (BitVec.ofNat 16 (0x0700 + k.val)) = .ok (.round (roundArg k))) ∧
  ∀ (k : Fin 10) s, ∃ s1 s2 s3 s4 t,
    exec .theta s = .next s1 ∧ exec .rho s1 = .next s2 ∧ exec .pi s2 = .next s3 ∧ exec .chi s3 = .next s4 ∧
    exec (.iota (roundArg k)) s4 = .next t ∧ exec (.round (roundArg k)) s = .next t ∧
    ((∀ i j, lane s.lanes i j = 0) →
      ∀ i j, lane t.lanes i j = if i = 0 ∧ j = 0 then Config.hw.rc k else 0)

/-- R119: PERMUTE is ROUND 0 to ROUND 9 issued in that order. -/
def Obligations.PermuteIsTenRoundsInOrder : Prop :=
  ∀ s, ∃ u : Nat → State, u 0 = s ∧
    (∀ k : Fin 10, exec (.round (roundArg k)) (u k.val) = .next (u (k.val + 1))) ∧ exec .permute s = .next (u 10)

/-- The eight permutation commands change nothing but the lanes (R24, and the introduction of spec/40_permutation.md). -/
def Obligations.PermutationCommandsTouchOnlyLanes : Prop :=
  ∀ i s t, i ∈ [Instr.stClr, .theta, .rho, .pi, .chi, .permute] ∨
      (∃ k : Fin 10, i = .iota (roundArg k) ∨ i = .round (roundArg k)) →
    exec i s = .next t → KeepsAllButLanes s t

/-- R119 derived: PERMUTE loses nothing, whatever the round constants are. -/
def Obligations.PermuteIsInjective : Prop :=
  ∀ rc (A B : StateMatrix), permuteStage rc A = permuteStage rc B → A = B

/-- A round index of 10 to 15 makes the word illegal, so the term raises IllegalCommand with its own word and does nothing
else. The model's choice, log entry 14: the decoder never gives such a term. -/
def Obligations.IllegalRoundIndexOnlyRaises : Prop :=
  ∀ r s, 10 ≤ r.toNat →
    (∃ t, exec (.iota r) s = .next t ∧ OnlyRaises .illegalCommand (BitVec.ofNat 16 (0x0600 + r.toNat)) s t) ∧
    (∃ t, exec (.round r) s = .next t ∧ OnlyRaises .illegalCommand (BitVec.ofNat 16 (0x0700 + r.toNat)) s t)

/-! ### HashEngine (spec/41_hash.md) -/

/-- R141, R142: the padded length T is the smallest multiple of 20 strictly above P; the padded stream is the input, the
marker 0x80 at offset P, and zeros up to T. -/
def Obligations.PaddingIsTheMarkerThenZeros : Prop :=
  ∀ x : List Byte, paddedLength x.length = 20 * (x.length / 20 + 1) ∧ x.length < paddedLength x.length ∧
    (∀ m, m % 20 = 0 → x.length < m → paddedLength x.length ≤ m) ∧
    (paddedStream x).length = paddedLength x.length ∧
    (∀ k, (paddedStream x)[k]? =
      if k < x.length then x[k]? else if k = x.length then some 0x80
      else if k < paddedLength x.length then some 0 else none) ∧
    1 ≤ paddedLength x.length - x.length ∧ paddedLength x.length - x.length ≤ 20

/-- R143: two different inputs never have the same padded stream. -/
def Obligations.PaddingIsInjective : Prop :=
  ∀ x y : List Byte, paddedStream x = paddedStream y → x = y

/-- R144, R145: word k of block b is 256·PB(20b+2k) + PB(20b+2k+1), and is XORed into lane (floor(k/5), k mod 5); rows 2, 3
and 4 are not touched. -/
def Obligations.AbsorptionXorsBigEndianWords : Prop :=
  ∀ (x : List Byte) (b : Nat) (S : StateMatrix),
    (∀ k, k < 10 → (blockWord x b k).toNat =
      256 * (paddedByte x (20 * b + 2 * k)).toNat + (paddedByte x (20 * b + 2 * k + 1)).toNat) ∧
    (∀ k, k < 10 → lane (absorbBlock x b S) (mod5 (k / 5)) (mod5 (k % 5)) =
      lane S (mod5 (k / 5)) (mod5 (k % 5)) ^^^ blockWord x b k) ∧
    (∀ i j : Fin 5, 2 ≤ i.val → lane (absorbBlock x b S) i j = lane S i j)

/-- R146 to R149: HASH completes, and with a message that fits it zeroes, absorbs and permutes block after block, squeezes
with one more permutation, writes the eight words high byte first to DIGEST, sets DVALID, and keeps the last matrix in the
lanes (R153). R154: the sixteen bytes it writes are `hashOf` of the message, the function the search statements speak of. -/
def Obligations.HashRunsTheSponge : Prop :=
  (∀ s, exec .hash s = .next (hashCommand Config.hw s)) ∧
  ∀ p s, s.msgLen.toNat ≤ p.msgMax →
    ∃ A : Nat → StateMatrix,
      (∀ i j, lane (A 0) i j = 0) ∧
      (∀ b, b < s.msgLen.toNat / 20 + 1 → A (b + 1) = permuteStage p.rc
        (absorbBlock ((List.range s.msgLen.toNat).map (byteAt p s .msg)) b (A b))) ∧
      (hashCommand p s).lanes = permuteStage p.rc (A (s.msgLen.toNat / 20 + 1)) ∧ (hashCommand p s).dvalid = true ∧
      (∀ j : Fin 5, (byteAt p (hashCommand p s) .digest (2 * j.val)).toNat =
          (lane (A (s.msgLen.toNat / 20 + 1)) 0 j).toNat / 256 ∧
        (byteAt p (hashCommand p s) .digest (2 * j.val + 1)).toNat =
          (lane (A (s.msgLen.toNat / 20 + 1)) 0 j).toNat % 256) ∧
      (∀ j : Fin 5, j.val < 3 →
        (byteAt p (hashCommand p s) .digest (10 + 2 * j.val)).toNat = (lane (hashCommand p s).lanes 0 j).toNat / 256 ∧
        (byteAt p (hashCommand p s) .digest (10 + 2 * j.val + 1)).toNat = (lane (hashCommand p s).lanes 0 j).toNat % 256) ∧
      (List.range 16).map (byteAt p (hashCommand p s) .digest) =
        hashOf p.rc ((List.range s.msgLen.toNat).map (byteAt p s .msg))

/-- The frame of HASH with a message that fits: the lanes, DVALID and DIGEST[0..15] aside, nothing changes (R66). -/
def Obligations.HashTouchesOnlyItsResults : Prop :=
  (∀ s, exec .hash s = .next (hashCommand Config.hw s)) ∧
  ∀ p s t, s.msgLen.toNat ≤ p.msgMax → t = hashCommand p s →
    t.estate = s.estate ∧ t.sstate = s.sstate ∧ t.fault = s.fault ∧ KeepsException s t ∧ KeepsOperands s t ∧
    KeepsResults s t ∧ KeepsHost s t ∧ KeepsBytes notDigestSpace s t ∧
    ∀ a, 16 ≤ a → byteAt p t .digest a = byteAt p s .digest a

/-- R140: a message longer than MSG_MAX raises BadParameter and nothing else. -/
def Obligations.HashTooLongOnlyRaises : Prop :=
  (∀ s, exec .hash s = .next (hashCommand Config.hw s)) ∧
  ∀ p s, p.msgMax < s.msgLen.toNat → OnlyRaises .badParameter 0x1000 s (hashCommand p s)

/-- R68: HASH twice leaves the same DIGEST and the same lanes both times. -/
def Obligations.HashTwiceGivesTheSameDigest : Prop :=
  (∀ s, exec .hash s = .next (hashCommand Config.hw s)) ∧
  ∀ p s t u, s.msgLen.toNat ≤ p.msgMax → t = hashCommand p s → u = hashCommand p t →
    u.lanes = t.lanes ∧ ∀ a, byteAt p u .digest a = byteAt p t .digest a

/-- R152: the digest and the lanes after HASH depend on the message alone. -/
def Obligations.HashDependsOnlyOnTheMessage : Prop :=
  (∀ s, exec .hash s = .next (hashCommand Config.hw s)) ∧
  ∀ p s s' t t', s.msgLen.toNat ≤ p.msgMax → s'.msgLen = s.msgLen →
    (∀ k, k < s.msgLen.toNat → byteAt p s' .msg k = byteAt p s .msg k) →
    t = hashCommand p s → t' = hashCommand p s' →
    t'.lanes = t.lanes ∧ ∀ k, k < 16 → byteAt p t' .digest k = byteAt p t .digest k

/-! ### Enumerator (spec/42_enumerator.md) -/

/-- R172: E.INIT gives NotStarted in every state; IDX and CAND aside, nothing else changes. -/
def Obligations.EInitRestartsTheEnumerator : Prop :=
  decode 0x2000 = .ok .eInit ∧
  ∀ s, ∃ t, exec .eInit s = .next t ∧ t.estate = .notStarted ∧ t.lanes = s.lanes ∧ t.sstate = s.sstate ∧
    t.dvalid = s.dvalid ∧ t.fault = s.fault ∧ KeepsException s t ∧ KeepsOperands s t ∧ KeepsResults s t ∧
    KeepsHost s t ∧ KeepsBytes notTupleSpace s t

/-- R173, R178: the first E.NEXT emits the all-zero tuple; over an empty alphabet it gives Exhausted. -/
def Obligations.FirstNextEmitsTheZeroTuple : Prop :=
  (∀ s, exec .eNext s = .next (nextTuple Config.hw s)) ∧
  ∀ p s t, ¬TupleParameterBad p s → s.estate = .notStarted → t = nextTuple p s →
    if s.alphaN = 0 then t.estate = .exhausted
    else t.estate = .atTuple ∧ ∀ k, k < s.tupleL.toNat → byteAt p t .idx k = 0 ∧
      byteAt p t .cand k = byteAt p s .alpha 0

/-- R173: at a tuple, the least slot below N − 1 is incremented, the slots before it are zeroed, the slots after it kept,
and CAND is the candidate of the new tuple. -/
def Obligations.NextAdvancesTheLeastSlot : Prop :=
  (∀ s, exec .eNext s = .next (nextTuple Config.hw s)) ∧
  ∀ p s t k, ¬TupleParameterBad p s → s.estate = .atTuple → k < s.tupleL.toNat →
    (byteAt p s .idx k).toNat + 1 < s.alphaN.toNat →
    (∀ q, q < k → s.alphaN.toNat ≤ (byteAt p s .idx q).toNat + 1) → t = nextTuple p s →
    t.estate = .atTuple ∧
      (∀ q, q < k → byteAt p t .idx q = 0) ∧
      (byteAt p t .idx k).toNat = (byteAt p s .idx k).toNat + 1 ∧
      (∀ q, k < q → q < s.tupleL.toNat → byteAt p t .idx q = byteAt p s .idx q) ∧
      (∀ q, q < s.tupleL.toNat → byteAt p t .cand q = byteAt p s .alpha (byteAt p t .idx q).toNat)

/-- R173: with every slot at N − 1, E.NEXT gives Exhausted; and Exhausted stays as it is. -/
def Obligations.NextAfterTheLastTuple : Prop :=
  (∀ s, exec .eNext s = .next (nextTuple Config.hw s)) ∧
  (∀ p s, ¬TupleParameterBad p s → s.estate = .atTuple →
    (∀ q, q < s.tupleL.toNat → s.alphaN.toNat ≤ (byteAt p s .idx q).toNat + 1) →
    (nextTuple p s).estate = .exhausted) ∧
  (∀ p s, ¬TupleParameterBad p s → s.estate = .exhausted → nextTuple p s = s)

/-- The frame of E.NEXT with good parameters: ESTATE, IDX and CAND aside, nothing changes (R66, R173). -/
def Obligations.NextTouchesOnlyTheTuple : Prop :=
  (∀ s, exec .eNext s = .next (nextTuple Config.hw s)) ∧
  ∀ p s t, ¬TupleParameterBad p s → t = nextTuple p s →
    t.lanes = s.lanes ∧ t.sstate = s.sstate ∧ t.dvalid = s.dvalid ∧ t.fault = s.fault ∧ KeepsException s t ∧
    KeepsOperands s t ∧ KeepsResults s t ∧ KeepsHost s t ∧ KeepsBytes notTupleSpace s t

/-- R171, R222: with N > 256, L = 0 or L > L_MAX, E.NEXT and SEARCH raise BadParameter and change nothing else. -/
def Obligations.BadTupleParametersOnlyRaise : Prop :=
  (∀ s, exec .eNext s = .next (nextTuple Config.hw s) ∧ exec .search s = .next (searchCommand Config.hw s)) ∧
  ∀ p s, 256 < s.alphaN.toNat ∨ s.tupleL.toNat = 0 ∨ p.lMax < s.tupleL.toNat →
    OnlyRaises .badParameter 0x2100 s (nextTuple p s) ∧ OnlyRaises .badParameter 0x3000 s (searchCommand p s)

/-- R176: advancing tuple number t gives tuple number t + 1, and the last tuple has none after it. -/
def Obligations.AdvanceCountsInBaseN : Prop :=
  ∀ N L t, 0 < N → t < N ^ L →
    advance N (tupleNumber N L t) = if t + 1 < N ^ L then some (tupleNumber N L (t + 1)) else none

/-- R176, R177: from NotStarted over N ≥ 1 symbols, the t-th E.NEXT (from 0) stands at tuple number t with its candidate,
for every t < N^L; the next one gives Exhausted; the tuples are all different and are all of [0,N)^L. -/
def Obligations.EnumerationIsComplete : Prop :=
  ∀ p s, ¬TupleParameterBad p s → s.alphaN ≠ 0 → s.estate = .notStarted →
    (∀ t, t < s.alphaN.toNat ^ s.tupleL.toNat →
      ((nextTuple p)^[t + 1] s).estate = .atTuple ∧
      ∀ k, k < s.tupleL.toNat →
        (byteAt p ((nextTuple p)^[t + 1] s) .idx k).toNat = t / s.alphaN.toNat ^ k % s.alphaN.toNat ∧
        byteAt p ((nextTuple p)^[t + 1] s) .cand k =
          byteAt p s .alpha (t / s.alphaN.toNat ^ k % s.alphaN.toNat)) ∧
    ((nextTuple p)^[s.alphaN.toNat ^ s.tupleL.toNat + 1] s).estate = .exhausted ∧
    (∀ t t', t < s.alphaN.toNat ^ s.tupleL.toNat → t' < s.alphaN.toNat ^ s.tupleL.toNat →
      tupleNumber s.alphaN.toNat s.tupleL.toNat t = tupleNumber s.alphaN.toNat s.tupleL.toNat t' → t = t') ∧
    (∀ u : List Nat, u.length = s.tupleL.toNat → (∀ d ∈ u, d < s.alphaN.toNat) →
      ∃ t, t < s.alphaN.toNat ^ s.tupleL.toNat ∧ u = tupleNumber s.alphaN.toNat s.tupleL.toNat t)

/-! ### SearchEngine (spec/43_search.md) -/

/-- R192 to R197: the worker machine starts in its invariant, and every enabled step keeps it. -/
def Obligations.WorkerStepsKeepTheirInvariant : Prop :=
  (∀ p n e, WorkersInv e (startWorkers p n)) ∧
  ∀ e ws st, WorkersInv e ws → stepEnabled e ws st = true → WorkersInv e (applyStep e ws st)

/-- R199: under every schedule and for every number of workers the run ends with every worker halted. A schedule of the
model always takes an enabled step, so a scheduler that starves a worker is outside it (log entry 9, DESIGN CHOICE). -/
def Obligations.EverySearchRunHaltsEveryWorker : Prop :=
  ∀ p n s, allHalted (searchRun p n s) = true

/-- R200, first half: a slot that is present holds a match, and a slot that is absent means there is none. -/
def Obligations.SearchRunImplementsTheRelation : Prop :=
  ∀ p n s, (∀ c, (searchRun p n s).slot = some c → IsMatch p s c) ∧
    ((searchRun p n s).slot = none → ∀ c, ¬IsMatch p s c)

/-- R200, second half: every match is the result under some schedule. -/
def Obligations.EveryMatchIsSomeSchedulesResult : Prop :=
  ∀ (p : Config.Params) n s c, IsMatch p s c →
    ∃ sched, (searchRun { p with schedule := sched } n s).slot = some c

/-- R191, R198: SEARCH completes, and with good parameters it answers Found with a match in RESULT when there is one, and
otherwise NotFound with SearchExhausted; FAULT is kept either way. -/
def Obligations.SearchAnswersTheRelation : Prop :=
  (∀ s, exec .search s = .next (searchCommand Config.hw s)) ∧
  ∀ p s t, ¬TupleParameterBad p s → t = searchCommand p s → t.fault = s.fault ∧
    ((∃ c, IsMatch p s c) →
      t.sstate = .found ∧ t.resultLen = s.tupleL ∧ KeepsException s t ∧
      IsMatch p s ((List.range s.tupleL.toNat).map (byteAt p t .result))) ∧
    ((¬∃ c, IsMatch p s c) →
      t.sstate = .notFound ∧ t.resultLen = 0 ∧ t.cause = some .searchExhausted ∧ t.xinfo = 0x3000)

/-- The frame of SEARCH with good parameters (R66, R204). -/
def Obligations.SearchTouchesOnlyItsResult : Prop :=
  (∀ s, exec .search s = .next (searchCommand Config.hw s)) ∧
  ∀ p s t, ¬TupleParameterBad p s → t = searchCommand p s →
    t.lanes = s.lanes ∧ t.estate = s.estate ∧ t.dvalid = s.dvalid ∧ t.fault = s.fault ∧ KeepsOperands s t ∧
    KeepsHost s t ∧ KeepsBytes notResultSpace s t

/-- R201: whether a search finds is the same for every number of workers, every schedule, every draw of ELAPSED and every
draw of a worker's matrix; and if there is at most one match, so is what it finds. The draws of unwritten ALPHA and TARGET
bytes are operands of the search (R252) and are held fixed. -/
def Obligations.SearchOutcomeIgnoresTheSchedule : Prop :=
  ∀ (p : Config.Params) w sched el ln s, ¬TupleParameterBad p s →
    (searchCommand { p with workersLess1 := w, schedule := sched, drawElapsed := el, drawLane := ln } s).sstate =
      (searchCommand p s).sstate ∧
    (searchCommand { p with workersLess1 := w, schedule := sched, drawElapsed := el, drawLane := ln } s).cause =
      (searchCommand p s).cause ∧
    (searchCommand { p with workersLess1 := w, schedule := sched, drawElapsed := el, drawLane := ln } s).resultLen =
      (searchCommand p s).resultLen ∧
    ((∀ c c', IsMatch p s c → IsMatch p s c' → c = c') → ∀ k, k < (searchCommand p s).resultLen.toNat →
      byteAt p (searchCommand { p with workersLess1 := w, schedule := sched, drawElapsed := el, drawLane := ln } s)
        .result k = byteAt p (searchCommand p s) .result k)

/-- R205: with the digest of some candidate as target, SEARCH finds a candidate of that digest. -/
def Obligations.SearchFindsTheDigestOfACandidate : Prop :=
  (∀ s, exec .search s = .next (searchCommand Config.hw s)) ∧
  ∀ p s t c, ¬TupleParameterBad p s → IsCandidate p s c →
    (List.range 16).map (byteAt p s .target) = hashOf p.rc c → t = searchCommand p s →
    t.sstate = .found ∧ hashOf p.rc ((List.range s.tupleL.toNat).map (byteAt p t .result)) = hashOf p.rc c

/-! ### Registers, spaces and reset (spec/10_state.md, spec/70_reset_and_hazards.md) -/

/-- R28: the layout of STATUS; its bits 15:6 are zero and neither two-bit field is ever 3. -/
def Obligations.StatusHasItsLayout : Prop :=
  ∀ s, (statusWord s).toNat =
      (match s.estate with | .notStarted => 0 | .atTuple => 1 | .exhausted => 2) +
      4 * (match s.sstate with | .none => 0 | .found => 1 | .notFound => 2) +
      16 * s.dvalid.toNat + 32 * s.fault.toNat ∧
    (statusWord s).extractLsb' 6 10 = 0 ∧ (statusWord s).extractLsb' 0 2 ≠ 3 ∧ (statusWord s).extractLsb' 2 2 ≠ 3

/-- R27, R68: a host read of a register gives the value of the register of that number, 0 for CMD and for a number not in
the table, and changes nothing in the machine. -/
def Obligations.RegisterReadsByNumber : Prop :=
  ∀ s no rest, s.pending = .getReg no :: rest →
    step s = .next { s with
      pending := rest
      got := (if no = 1 then (statusWord s).setWidth 64
        else if no = 2 then
          (match s.cause with
            | none => 0 | some .searchExhausted => 1 | some .illegalCommand => 2 | some .badParameter => 3)
        else if no = 3 then s.xinfo.setWidth 64 else if no = 4 then s.msgLen.setWidth 64
        else if no = 5 then s.alphaN.setWidth 64 else if no = 6 then s.tupleL.setWidth 64
        else if no = 7 then s.resultLen.setWidth 64 else if no = 8 then s.elapsed else 0) :: s.got }

/-- R27, R30 to R32: a host write to MSG_LEN stores it; one to ALPHA_N or TUPLE_L stores it and makes the enumerator
NotStarted; one to any other register but CMD is ignored. The value
is taken to the register's width (the model's choice, log entry 11). -/
def Obligations.RegisterWritesByNumber : Prop :=
  ∀ s no v rest, s.pending = .setReg no v :: rest → no ≠ 0 → ∃ t, step s = .next t ∧
    (no = 4 → t = { s with pending := rest, msgLen := v.setWidth 32 }) ∧
    (no = 5 → t.alphaN = v.setWidth 16 ∧ t.tupleL = s.tupleL) ∧
    (no = 6 → t.tupleL = v.setWidth 16 ∧ t.alphaN = s.alphaN) ∧
    (no = 5 ∨ no = 6 → t.estate = .notStarted ∧ t.msgLen = s.msgLen ∧ t.lanes = s.lanes ∧ t.sstate = s.sstate ∧
      t.dvalid = s.dvalid ∧ t.fault = s.fault ∧ KeepsException s t ∧ KeepsResults s t ∧
      KeepsBytes notTupleSpace s t ∧ t.pending = rest ∧ t.got = s.got) ∧
    (no ≠ 4 → no ≠ 5 → no ≠ 6 → t = { s with pending := rest })

/-- R42: a host write of lane number 5·i + j sets A[i][j] and nothing else; a host read of it gives A[i][j] and changes
nothing in the machine. -/
def Obligations.LaneAccessByNumber : Prop :=
  (∀ s (i j : Fin 5) (k : Fin 25) v rest, k.val = 5 * i.val + j.val → s.pending = .setLane k v :: rest →
    ∃ t, step s = .next t ∧ lane t.lanes i j = v ∧
      (∀ a b, ¬(a = i ∧ b = j) → lane t.lanes a b = lane s.lanes a b) ∧
      KeepsAllButLanes { s with pending := rest } t) ∧
  (∀ s (i j : Fin 5) (k : Fin 25) rest, k.val = 5 * i.val + j.val → s.pending = .getLane k :: rest →
    step s = .next { s with pending := rest, got := (lane s.lanes i j).setWidth 64 :: s.got })

/-- R35 to R41: a host write inside MSG, ALPHA or TARGET changes that byte and nothing else; one inside a read-only space
is ignored (the model's reading, log entry 12); a host read gives the byte and changes nothing in the machine. -/
def Obligations.ByteAccessBySpace : Prop :=
  (∀ s, step s = takeAction Config.hw s) ∧
  (∀ p s sp a b rest, s.pending = .setByte sp a b :: rest → a < capacity p sp → ∃ t, takeAction p s = .next t ∧
    (∀ sp' a', byteAt p t sp' a' =
      if sp' = sp ∧ a' = a ∧ (sp = .msg ∨ sp = .alpha ∨ sp = .target) then b else byteAt p s sp' a') ∧
    t.lanes = s.lanes ∧ KeepsStatus s t ∧ KeepsException s t ∧ KeepsOperands s t ∧ KeepsResults s t ∧
    t.pending = rest ∧ t.got = s.got) ∧
  (∀ p s sp a rest, s.pending = .getByte sp a :: rest → a < capacity p sp →
    takeAction p s = .next { s with pending := rest, got := (byteAt p s sp a).setWidth 64 :: s.got })

/-- A step stops only at a host access outside its space, which the spec calls not expressible (log entry 13), and there it
does; no step is refused. -/
def Obligations.StepStopsOnlyOutsideASpace : Prop :=
  (∀ s, step s = takeAction Config.hw s) ∧
  (∀ p s r, takeAction p s = .fault r ↔ ∃ sp a rest, r = .noSuchElement sp a ∧ capacity p sp ≤ a ∧
    (s.pending = .getByte sp a :: rest ∨ ∃ b, s.pending = .setByte sp a b :: rest)) ∧
  (∀ p s r, takeAction p s ≠ .refused r)

/-- R46, R251: what reset leaves in every register and lane the spec gives a value. -/
def Obligations.ResetLeavesTheSpecsValues : Prop :=
  (∀ i j, lane State.reset.lanes i j = 0) ∧ statusWord State.reset = 0 ∧ causeWord State.reset = 0 ∧
  State.reset.xinfo = 0 ∧ State.reset.msgLen = 0 ∧ State.reset.alphaN = 0 ∧ State.reset.tupleL = 1 ∧
  State.reset.resultLen = 0 ∧ State.reset.estate = .notStarted ∧ State.reset.sstate = .none

/-- R250: a reset, also one that cuts a command off, gives the reset values from every state. -/
def Obligations.ResetAtAnyTimeGivesTheResetState : Prop :=
  ∀ s rest, (s.pending = .reset :: rest ∨ ∃ cw, s.pending = .abort cw :: rest) → ∃ t, step s = .next t ∧
    (∀ i j, lane t.lanes i j = 0) ∧ statusWord t = 0 ∧ causeWord t = 0 ∧ t.xinfo = 0 ∧ t.msgLen = 0 ∧ t.alphaN = 0 ∧
    t.tupleL = 1 ∧ t.resultLen = 0 ∧ (∀ sp, (spaceOf t sp).cells = []) ∧ t.pending = rest ∧ t.got = s.got

/-! ### Whole-machine rules -/

/-- R28, "written by": each field of STATUS changes only by what the table names for it. The command word is the low 16
bits of what is written to CMD (log entry 11, DESIGN CHOICE). -/
def Obligations.StatusFieldsWrittenOnlyAsListed : Prop :=
  ∀ s t, step s = .next t → nextIsReset s = false →
    (t.estate ≠ s.estate → nextCommand s = some 0x2000 ∨ nextCommand s = some 0x2100 ∨
      ∃ v rest, s.pending = .setReg 5 v :: rest ∨ s.pending = .setReg 6 v :: rest) ∧
    (t.sstate ≠ s.sstate → nextCommand s = some 0x3000 ∧ t.sstate ≠ .none) ∧
    (t.dvalid ≠ s.dvalid → nextCommand s = some 0x1000 ∧ t.dvalid = true) ∧
    (t.fault ≠ s.fault → t.fault = true ∧ (t.cause = some .illegalCommand ∨ t.cause = some .badParameter))

/-- R29, R229: CAUSE and XINFO change only by an exception, whose word XINFO then holds, and only reset returns CAUSE to
0; FAULT stays set until reset. The command word is the low 16 bits of what is written to CMD (log entry 11, DESIGN
CHOICE). -/
def Obligations.ExceptionRegistersPersist : Prop :=
  ∀ s t, step s = .next t → nextIsReset s = false →
    (s.fault = true → t.fault = true) ∧ (s.cause ≠ none → t.cause ≠ none) ∧
    (t.cause ≠ s.cause ∨ t.xinfo ≠ s.xinfo → t.cause ≠ none ∧ nextCommand s = some t.xinfo)

/-- R24, R42: the lanes of H0 change only by a reset, a host write to LANE, or one of the commands the table of R24 names.
The command word is the low 16 bits of what is written to CMD (log entry 11, DESIGN CHOICE). -/
def Obligations.LanesChangeOnlyAsListed : Prop :=
  ∀ s t, step s = .next t → t.lanes ≠ s.lanes →
    nextIsReset s = true ∨ nextSetsLane s = true ∨ ∃ w ∈ laneWords, nextCommand s = some w

/-- R229: no exception disables a later command: with other contents of FAULT, CAUSE and XINFO every command does the same
to everything else. -/
def Obligations.ExceptionsDisableNothing : Prop :=
  ∀ i s x w f t, exec i s = .next t → ∃ u, exec i { s with cause := x, xinfo := w, fault := f } = .next u ∧
    u = { t with cause := u.cause, xinfo := u.xinfo, fault := u.fault }

/-- The invariant holds at reset. -/
def Obligations.ResetMeetsTheInvariant : Prop := Inv Config.hw State.reset

/-- Every step keeps the invariant: the spaces keep their canonical form and bounds, a tuple in progress fits N and L,
RESULT and DIGEST hold what STATUS says they hold, and CAUSE, XINFO and FAULT agree. -/
def Obligations.EveryStepKeepsTheInvariant : Prop :=
  ∀ s t, Inv Config.hw s → step s = .next t → Inv Config.hw t

/-- At reset and after every step the seven spaces read from seven different draw numbers, all below the next one; and over
a step the next number never falls, and a space keeps its number, with every byte it stores, or takes an unused one. So a
number given up is never taken again, by that space or another. The model's own bookkeeping, log entry 2. -/
def Obligations.DrawNumbersAreNeverReused : Prop :=
  DrawsFresh State.reset ∧ (∀ s t, DrawsFresh s → step s = .next t → DrawsFresh t) ∧
  ∀ s t, step s = .next t → DrawsAdvance s t

/-! ### Assembler text (spec/30_encoding.md R97, R98) -/

/-- R97: command statements and host accesses assemble to the actions R97 gives for them. -/
def Obligations.StatementsAssembleAsWritten : Prop :=
  assembleLine "ROUND 3".toList = some [.setReg 0 0x0703] ∧
  assembleLine "IOTA 9".toList = some [.setReg 0 0x0609] ∧
  assembleLine "HASH ; digest".toList = some [.setReg 0 0x1000] ∧
  assembleLine "SET LANE[0][0] = 0x12".toList = some [.setLane 0 18] ∧
  assembleLine "GET MSG[4]".toList = some [.getByte .msg 4] ∧
  assembleLine "ROUND 10".toList = none

/-- R98: the pseudo-instructions are the listed host writes, in order. -/
def Obligations.PseudoInstructionsExpand : Prop :=
  (∀ bs k, (loadMsg bs)[k]? = if k < bs.length then (bs[k]?).map (HostAction.setByte .msg k)
    else if k = bs.length then some (.setReg 4 (BitVec.ofNat 64 bs.length)) else none) ∧
  (∀ bs k, (loadAlpha bs)[k]? = if k < bs.length then (bs[k]?).map (HostAction.setByte .alpha k)
    else if k = bs.length then some (.setReg 5 (BitVec.ofNat 64 bs.length)) else none) ∧
  (∀ bs, bs.length = 16 → ∃ as, loadTarget bs = some as ∧ as.length = 16 ∧
    ∀ k, k < 16 → as[k]? = (bs[k]?).map (HostAction.setByte .target k)) ∧
  (∀ ws, ws.length = 25 → ∃ as, loadState ws = some as ∧ as.length = 25 ∧
    ∀ k : Fin 25, as[k.val]? = (ws[k.val]?).map (HostAction.setLane k))
end

