-- ==== Sys2Proof/Laws/Commands.lean ====
section
/-! SUPPORT. What each command, each host action and each step can do, said once. -/

namespace Sys2Proof.Machine

open Sys2Proof.Config

/-! ### The round index -/

theorem roundIndex_legal {r : BitVec 4} (h : r.toNat < 10) : roundIndex r = some ⟨r.toNat, h⟩ := dif_pos h

theorem roundIndex_illegal {r : BitVec 4} (h : ¬r.toNat < 10) : roundIndex r = none := dif_neg h

/-! ### HASH -/

theorem hashCommand_tooLong {p : Params} {s : State} (h : MessageTooLong p s) :
    hashCommand p s = raise .badParameter (encode .hash) s := if_pos h

theorem hashCommand_fits {p : Params} {s : State} (h : ¬MessageTooLong p s) :
    hashCommand p s =
      { s with
        lanes := (hashOn p.rc s.lanes (message p s)).lanes
        digest := writeBytes s.digest 0 (hashOn p.rc s.lanes (message p s)).digest
        dvalid := true } := if_neg h

/-- What the unit's matrix held before does not matter: the computation zeroes it first (R149). -/
theorem hashOn_unit (rc : Fin 10 → Word) (S : StateMatrix) (x : List Byte) : hashOn rc S x = hashOn rc StateMatrix.zero x := rfl

/-- The digest of a computation on any unit is the pure function `hash` (R154). -/
theorem hashOn_digest (rc : Fin 10 → Word) (S : StateMatrix) (x : List Byte) : (hashOn rc S x).digest = hashOf rc x := rfl

theorem hashOn_digest_length (rc : Fin 10 → Word) (S : StateMatrix) (x : List Byte) :
    (hashOn rc S x).digest.length = 16 := by
  simp [hashOn, squeeze, digestWords, bytesOfWord]

/-! ### E.NEXT -/

theorem nextTuple_bad {p : Params} {s : State} (h : TupleParameterBad p s) :
    nextTuple p s = raise .badParameter (encode .eNext) s := if_pos h

theorem nextTuple_empty {p : Params} {s : State} (h : ¬TupleParameterBad p s) (he : s.estate = .notStarted)
    (hN : alphabetSize s = 0) : nextTuple p s = exhaustTuples s := by
  simp [nextTuple, h, he, hN]

theorem nextTuple_first {p : Params} {s : State} (h : ¬TupleParameterBad p s) (he : s.estate = .notStarted)
    (hN : alphabetSize s ≠ 0) : nextTuple p s = emit p (List.replicate (tupleLength s) 0) s := by
  simp [nextTuple, h, he, hN]

theorem nextTuple_advance {p : Params} {s : State} (h : ¬TupleParameterBad p s) (he : s.estate = .atTuple)
    {t : List Nat} (ht : advance (alphabetSize s) (currentTuple p s) = some t) : nextTuple p s = emit p t s := by
  simp [nextTuple, h, he, ht]

theorem nextTuple_last {p : Params} {s : State} (h : ¬TupleParameterBad p s) (he : s.estate = .atTuple)
    (ht : advance (alphabetSize s) (currentTuple p s) = none) : nextTuple p s = exhaustTuples s := by
  simp [nextTuple, h, he, ht]

theorem nextTuple_exhausted {p : Params} {s : State} (h : ¬TupleParameterBad p s) (he : s.estate = .exhausted) :
    nextTuple p s = s := by
  simp [nextTuple, h, he]

/-! ### SEARCH -/

theorem searchCommand_bad {p : Params} {s : State} (h : TupleParameterBad p s) :
    searchCommand p s = raise .badParameter (encode .search) s := if_pos h

theorem searchCommand_good {p : Params} {s : State} (h : ¬TupleParameterBad p s) :
    searchCommand p s = finishSearch p (searchRun p s.draws s).slot s := if_neg h

/-- One turn of the worker machine while some worker has not halted. -/
theorem runWorkers_step {e : SearchInput} {sched : Nat → Nat} {fuel i : Nat} {ws : Workers} {st : WorkerStep}
    (hh : allHalted ws = false) (hs : selectStep (enabledSteps e ws) (sched i) = some st) :
    runWorkers e sched (fuel + 1) i ws = runWorkers e sched fuel (i + 1) (applyStep e ws st) := by
  simp [runWorkers, hh, hs]

theorem runWorkers_halted {e : SearchInput} {sched : Nat → Nat} {fuel i : Nat} {ws : Workers} (hh : allHalted ws = true) :
    runWorkers e sched fuel i ws = ws := by
  cases fuel <;> simp [runWorkers, hh]

/-- The step a number selects is an enabled one. -/
theorem selectStep_mem {steps : List WorkerStep} {n : Nat} {st : WorkerStep} (h : selectStep steps n = some st) :
    st ∈ steps := List.mem_of_getElem? h

/-- A number selects a step whenever one is enabled. -/
theorem selectStep_isSome {steps : List WorkerStep} (h : steps ≠ []) (n : Nat) : (selectStep steps n).isSome = true := by
  have : n % steps.length < steps.length := Nat.mod_lt _ (List.length_pos_of_ne_nil h)
  simp [selectStep, this]

/-- Whatever holds at the start and is kept by every enabled step holds at the end of a run. -/
theorem runWorkers_induction {e : SearchInput} {sched : Nat → Nat} (P : Workers → Prop)
    (hstep : ∀ ws st, P ws → stepEnabled e ws st = true → P (applyStep e ws st)) (fuel i : Nat) (ws : Workers) (h : P ws) :
    P (runWorkers e sched fuel i ws) := by
  induction fuel generalizing i ws with
  | zero => exact h
  | succ fuel ih =>
    simp only [runWorkers]
    split_ifs
    · exact h
    · cases hs : selectStep (enabledSteps e ws) (sched i) with
      | none => exact h
      | some st => exact ih _ _ (hstep ws st h (List.mem_filter.1 (selectStep_mem hs)).2)

/-- `[0,N)^L`, member by member. -/
theorem mem_allTuples {N L : Nat} {t : List Nat} : t ∈ allTuples N L ↔ t.length = L ∧ ∀ d ∈ t, d < N := by
  induction L generalizing t with
  | zero => cases t <;> simp [allTuples]
  | succ L ih =>
    simp only [allTuples, List.mem_flatMap, List.mem_map, List.mem_range, ih]
    constructor
    · rintro ⟨u, ⟨hl, hu⟩, d, hd, rfl⟩
      exact ⟨by simp [hl], by simpa using ⟨hd, hu⟩⟩
    · rintro ⟨hl, ht⟩
      cases t with
      | nil => simp at hl
      | cons d u => exact ⟨u, ⟨by simpa using hl, fun e he => ht e (List.mem_cons_of_mem _ he)⟩, d, ht d List.mem_cons_self, rfl⟩

/-- There are N^L tuples. -/
theorem allTuples_length (N L : Nat) : (allTuples N L).length = N ^ L := by
  induction L with
  | zero => rfl
  | succ L ih => simp [allTuples, List.length_flatMap, ih, Nat.pow_succ]

/-! ### Host actions and steps -/

theorem writeRegister_command (v : BitVec 64) (s : State) : writeRegister v s 0 = issueCommand (v.setWidth 16) s := rfl

theorem writeRegister_msgLen (v : BitVec 64) (s : State) :
    writeRegister v s 4 = .next { s with msgLen := v.setWidth 32 } := rfl

theorem writeRegister_alphaN (v : BitVec 64) (s : State) :
    writeRegister v s 5 = .next (restartEnumerator { s with alphaN := v.setWidth 16 }) := rfl

theorem writeRegister_tupleL (v : BitVec 64) (s : State) :
    writeRegister v s 6 = .next (restartEnumerator { s with tupleL := v.setWidth 16 }) := rfl

theorem writeRegister_ignored {no : Nat} (h0 : no ≠ 0) (h4 : no ≠ 4) (h5 : no ≠ 5) (h6 : no ≠ 6) (v : BitVec 64)
    (s : State) : writeRegister v s no = .next s := by
  unfold writeRegister
  split <;> first | contradiction | rfl

theorem issueCommand_legal {cw : Word} {i : Instr} (h : decode cw = .ok i) (s : State) : issueCommand cw s = exec i s := by
  simp [issueCommand, h]

theorem issueCommand_illegal {cw : Word} {e : DecodeError} (h : decode cw = .error e) (s : State) :
    issueCommand cw s = .next (raise .illegalCommand cw s) := by
  simp [issueCommand, h]

theorem takeAction_idle {p : Params} {s : State} (h : s.pending = []) : takeAction p s = .next s := by
  simp [takeAction, h]

theorem takeAction_cons {p : Params} {s : State} {a : HostAction} {rest : List HostAction} (h : s.pending = a :: rest) :
    takeAction p s = hostAction p a { s with pending := rest } := by
  simp [takeAction, h]

/-- What a write of a register can do when it answers a next state. -/
theorem writeRegister_cases {no : Nat} {v : BitVec 64} {s t : State} (h : writeRegister v s no = .next t) :
    (no = 0 ∧ (∃ i, decode (v.setWidth 16) = .ok i ∧ exec i s = .next t)) ∨
    (no = 0 ∧ (∃ e, decode (v.setWidth 16) = .error e) ∧ t = raise .illegalCommand (v.setWidth 16) s) ∨
    (no = 4 ∧ t = { s with msgLen := v.setWidth 32 }) ∨
    (no = 5 ∧ t = restartEnumerator { s with alphaN := v.setWidth 16 }) ∨
    (no = 6 ∧ t = restartEnumerator { s with tupleL := v.setWidth 16 }) ∨
    (no ≠ 0 ∧ no ≠ 4 ∧ no ≠ 5 ∧ no ≠ 6 ∧ t = s) := by
  unfold writeRegister at h
  split at h
  · cases hd : decode (v.setWidth 16) with
    | ok i => exact .inl ⟨rfl, i, rfl, by rwa [issueCommand_legal hd] at h⟩
    | error e =>
      rw [issueCommand_illegal hd] at h
      cases h
      exact .inr (.inl ⟨rfl, ⟨e, rfl⟩, rfl⟩)
  · cases h; simp
  · cases h; simp
  · cases h; simp
  · cases h; simp_all

/-- What an action of the host can do when it answers a next state. -/
theorem hostAction_cases {p : Params} {a : HostAction} {s t : State} (h : hostAction p a s = .next t) :
    (∃ no v, a = .setReg no v ∧ writeRegister v s no = .next t) ∨
    (∃ no, a = .getReg no ∧ t = receive (readRegister s no) s) ∨
    (∃ k v, a = .setLane k v ∧ t = { s with lanes := setLane s.lanes (laneRow k) (laneColumn k) v }) ∨
    (∃ k, a = .getLane k ∧ t = receive ((lane s.lanes (laneRow k) (laneColumn k)).setWidth 64) s) ∨
    (∃ sp o b, a = .setByte sp o b ∧ o < capacity p sp ∧ t = writeSpace sp o b s) ∨
    (∃ sp o, a = .getByte sp o ∧ o < capacity p sp ∧ t = receive ((readByte p (spaceOf s sp) o).setWidth 64) s) ∨
    ((a = .reset ∨ ∃ cw, a = .abort cw) ∧ t = hostReset p s) := by
  cases a with
  | setReg no v => exact .inl ⟨no, v, rfl, h⟩
  | getReg no => cases h; exact .inr (.inl ⟨no, rfl, rfl⟩)
  | setLane k v => cases h; exact .inr (.inr (.inl ⟨k, v, rfl, rfl⟩))
  | getLane k => cases h; exact .inr (.inr (.inr (.inl ⟨k, rfl, rfl⟩)))
  | setByte sp o b =>
    simp only [hostAction] at h
    split_ifs at h with ho
    cases h
    exact .inr (.inr (.inr (.inr (.inl ⟨sp, o, b, rfl, ho, rfl⟩))))
  | getByte sp o =>
    simp only [hostAction] at h
    split_ifs at h with ho
    cases h
    exact .inr (.inr (.inr (.inr (.inr (.inl ⟨sp, o, rfl, ho, rfl⟩)))))
  | reset => cases h; exact .inr (.inr (.inr (.inr (.inr (.inr ⟨.inl rfl, rfl⟩)))))
  | abort cw => cases h; exact .inr (.inr (.inr (.inr (.inr (.inr ⟨.inr ⟨cw, rfl⟩, rfl⟩)))))

/-- A step with a next state idles or performs the host's next action. -/
theorem step_cases {s t : State} (h : step s = .next t) :
    (s.pending = [] ∧ t = s) ∨
    (∃ a rest, s.pending = a :: rest ∧ hostAction Config.hw a { s with pending := rest } = .next t) := by
  cases hp : s.pending with
  | nil =>
    rw [step, takeAction_idle hp] at h
    cases h
    exact .inl ⟨rfl, rfl⟩
  | cons a rest =>
    rw [step, takeAction_cons hp] at h
    exact .inr ⟨a, rest, rfl, h⟩

end Sys2Proof.Machine
end

