-- ==== Sys2Proof/Laws/Enumerator.lean ====
section
/-! SUPPORT. The odometer, slot by slot. -/

namespace Sys2Proof.Machine

theorem advance_nil (N : Nat) : advance N [] = none := rfl

/-- Slot 0 counts up while it can; at N − 1 it returns to 0 and the slots after it advance. -/
theorem advance_cons (N d : Nat) (ds : List Nat) :
    advance N (d :: ds) = if d + 1 < N then some ((d + 1) :: ds) else (advance N ds).map (0 :: ·) := by
  by_cases h : d + 1 < N
  · simp [advance, List.findIdx?_cons, h]
  · simp only [advance, List.findIdx?_cons, h, decide_false, if_false, Bool.false_eq_true]
    cases List.findIdx? (fun d => decide (d + 1 < N)) ds <;> simp [List.replicate_succ]

theorem advance_length {N : Nat} {t u : List Nat} (h : advance N t = some u) : u.length = t.length := by
  induction t generalizing u with
  | nil => simp [advance_nil] at h
  | cons d ds ih =>
    rw [advance_cons] at h
    split_ifs at h
    · cases h; rfl
    · obtain ⟨v, hv, rfl⟩ := Option.map_eq_some_iff.1 h
      simp [ih hv]

/-- An advanced tuple stays inside the alphabet. -/
theorem advance_lt {N : Nat} {t u : List Nat} (hN : 0 < N) (ht : ∀ d ∈ t, d < N) (h : advance N t = some u) :
    ∀ d ∈ u, d < N := by
  induction t generalizing u with
  | nil => simp [advance_nil] at h
  | cons d ds ih =>
    rw [advance_cons] at h
    have hds : ∀ e ∈ ds, e < N := fun e he => ht e (List.mem_cons_of_mem _ he)
    split_ifs at h with hd
    · cases h
      intro e he
      rcases List.mem_cons.1 he with rfl | he
      · exact hd
      · exact hds e he
    · obtain ⟨v, hv, rfl⟩ := Option.map_eq_some_iff.1 h
      intro e he
      rcases List.mem_cons.1 he with rfl | he
      · exact hN
      · exact ih hds hv e he

end Sys2Proof.Machine
end

