-- ==== Sys2Proof/Laws/Matrix.lean ====
section
/-! SUPPORT. Reading a lane of a matrix written as a function, and equality of matrices lane by lane. -/

namespace Sys2Proof.Machine

theorem rowLane_rowOf (f : Fin 5 → Word) (j : Fin 5) : rowLane (rowOf f) j = f j := by
  fin_cases j <;> rfl

theorem matrixRow_matrixOf (f : Fin 5 → Fin 5 → Word) (i : Fin 5) : matrixRow (matrixOf f) i = rowOf (f i) := by
  fin_cases i <;> rfl

/-- A lane of a matrix written whole is the function's value there. -/
@[simp] theorem lane_matrixOf (f : Fin 5 → Fin 5 → Word) (i j : Fin 5) : lane (matrixOf f) i j = f i j := by
  rw [lane, matrixRow_matrixOf, rowLane_rowOf]

@[simp] theorem lane_zero (i j : Fin 5) : lane StateMatrix.zero i j = 0 := by
  fin_cases i <;> fin_cases j <;> rfl

/-- A matrix is written whole by its own lanes. -/
theorem matrixOf_lane (A : StateMatrix) : matrixOf (lane A) = A := rfl

/-- Matrices with the same lanes are the same. -/
theorem matrix_ext {A B : StateMatrix} (h : ∀ i j, lane A i j = lane B i j) : A = B := by
  rw [← matrixOf_lane A, ← matrixOf_lane B, show lane A = lane B from funext fun i => funext fun j => h i j]

@[simp] theorem lane_setLane (A : StateMatrix) (i j : Fin 5) (v : Word) (a b : Fin 5) :
    lane (setLane A i j v) a b = if a = i ∧ b = j then v else lane A a b := by
  rw [setLane, lane_matrixOf]

@[simp] theorem lane_clearMatrix (S : StateMatrix) (i j : Fin 5) : lane (clearMatrix S) i j = 0 := lane_zero i j

theorem lane_thetaStage (S : StateMatrix) (i j : Fin 5) : lane (thetaStage S) i j = lane S i j ^^^ thetaMask S i :=
  lane_matrixOf _ i j

theorem lane_rhoStage (S : StateMatrix) (i j : Fin 5) :
    lane (rhoStage S) i j = rotl16 (lane S i j) ((7 * i.val + j.val) % 16) := lane_matrixOf _ i j

theorem lane_piStage (S : StateMatrix) (a b : Fin 5) : lane (piStage S) a b = lane S b (3 * a + b) := lane_matrixOf _ a b

theorem lane_chiStage (S : StateMatrix) (i j : Fin 5) :
    lane (chiStage S) i j = lane S i j ^^^ (~~~(lane S (i + 1) j) &&& lane S (i + 2) j) := lane_matrixOf _ i j

theorem lane_iotaStage (rc : Fin 10 → Word) (r : Fin 10) (S : StateMatrix) (i j : Fin 5) :
    lane (iotaStage rc r S) i j = if i = 0 ∧ j = 0 then lane S 0 0 ^^^ rc r else lane S i j :=
  lane_setLane S 0 0 _ i j

end Sys2Proof.Machine
end

