-- ==== Sys2Proof/Laws/Memory.lean ====
section
/-! SUPPORT. The byte spaces: reading after writing, the canonical form, and the offsets a write may add. -/

namespace Sys2Proof.Machine

open Sys2Proof.Config

/-- What is stored after one store: the new byte at its offset, the old bytes elsewhere. -/
theorem lookupCell_storeCell (cs : List Host.Cell) (a : Nat) (b : Byte) (k : Nat) :
    lookupCell (storeCell cs a b) k = if k = a then some b else lookupCell cs k := by
  induction cs with
  | nil => simp [storeCell, lookupCell, eq_comm]
  | cons c rest ih =>
    obtain ⟨n, v⟩ := c
    simp only [storeCell]
    by_cases h1 : a < n
    · simp [h1, lookupCell, eq_comm]
    · by_cases h2 : a = n
      · subst h2
        by_cases hk : k = a
        · simp [lookupCell, hk]
        · simp [lookupCell, hk, Ne.symm hk]
      · by_cases hn : n = k
        · subst hn
          simp [h1, h2, lookupCell, Ne.symm h2]
        · simp [h1, h2, lookupCell, hn, ih]

/-- The offsets after a store are the old ones and the new one. -/
theorem mem_storeCell {cs : List Host.Cell} {a : Nat} {b : Byte} {c : Host.Cell} (h : c ∈ storeCell cs a b) :
    c = (a, b) ∨ c ∈ cs := by
  induction cs with
  | nil => simpa [storeCell] using h
  | cons d rest ih =>
    simp only [storeCell] at h
    split_ifs at h with h1 h2
    · simpa using h
    · rcases List.mem_cons.1 h with h | h
      · exact .inl h
      · exact .inr (List.mem_cons_of_mem _ h)
    · rcases List.mem_cons.1 h with h | h
      · exact .inr (h ▸ List.mem_cons_self)
      · exact (ih h).imp_right (List.mem_cons_of_mem _)

/-- A store keeps the canonical form. -/
theorem storeCell_rising {cs : List Host.Cell} (hw : cs.Pairwise fun x y => x.1 < y.1) (a : Nat) (b : Byte) :
    (storeCell cs a b).Pairwise fun x y => x.1 < y.1 := by
  induction cs with
  | nil => simp [storeCell]
  | cons c rest ih =>
    obtain ⟨n, v⟩ := c
    obtain ⟨hlt, hrest⟩ := List.pairwise_cons.1 hw
    simp only [storeCell]
    split_ifs with h1 h2
    · refine List.pairwise_cons.2 ⟨fun d hd => ?_, hw⟩
      rcases List.mem_cons.1 hd with rfl | hd
      · exact h1
      · exact lt_trans h1 (hlt d hd)
    · subst h2; exact List.pairwise_cons.2 ⟨hlt, hrest⟩
    · refine List.pairwise_cons.2 ⟨fun d hd => ?_, ih hrest⟩
      rcases mem_storeCell hd with rfl | hd
      · show n < a; omega
      · exact hlt d hd

theorem unspecified_wf (n : Nat) : (Memory.unspecified n).wf := List.Pairwise.nil

/-- Every space is in canonical form at reset. -/
theorem reset_spaces_wf (sp : Space) : (spaceOf State.reset sp).wf := by cases sp <;> exact List.Pairwise.nil

theorem writeByte_wf {m : Memory} (h : m.wf) (a : Nat) (b : Byte) : (writeByte m a b).wf := storeCell_rising h a b

theorem writeBytes_wf {m : Memory} (h : m.wf) (a : Nat) (bs : List Byte) : (writeBytes m a bs).wf := by
  induction bs generalizing m a with
  | nil => exact h
  | cons b bs ih => exact ih (writeByte_wf h a b) (a + 1)

@[simp] theorem writeByte_seed (m : Memory) (a : Nat) (b : Byte) : (writeByte m a b).seed = m.seed := rfl

@[simp] theorem writeBytes_seed (m : Memory) (a : Nat) (bs : List Byte) : (writeBytes m a bs).seed = m.seed := by
  induction bs generalizing m a with
  | nil => rfl
  | cons b bs ih => exact ih (writeByte m a b) (a + 1)

/-- What is stored after writing a run of bytes. -/
theorem lookupCell_writeBytes (m : Memory) (a : Nat) (bs : List Byte) (k : Nat) :
    lookupCell (writeBytes m a bs).cells k = if a ≤ k ∧ k < a + bs.length then bs[k - a]? else lookupCell m.cells k := by
  induction bs generalizing m a with
  | nil => simp only [writeBytes, List.length_nil]; rw [if_neg (by omega)]
  | cons b bs ih =>
    rw [writeBytes, ih, writeByte, lookupCell_storeCell]
    by_cases hk : k = a
    · subst hk; simp
    · have hc : (a + 1 ≤ k ∧ k < a + 1 + bs.length) ↔ (a ≤ k ∧ k < a + (b :: bs).length) := by
        simp only [List.length_cons]; omega
      simp only [hc, hk, if_false]
      split_ifs with hin
      · obtain ⟨d, rfl⟩ : ∃ d, k = a + 1 + d := ⟨k - (a + 1), by omega⟩
        rw [show a + 1 + d - a = d + 1 by omega, show a + 1 + d - (a + 1) = d by omega, List.getElem?_cons_succ]
      · rfl

/-- Every offset stored after writing a run is an old one or lies in the run. -/
theorem mem_writeBytes {m : Memory} {a : Nat} {bs : List Byte} {c : Host.Cell} (h : c ∈ (writeBytes m a bs).cells) :
    c ∈ m.cells ∨ a ≤ c.1 ∧ c.1 < a + bs.length := by
  induction bs generalizing m a with
  | nil => exact .inl h
  | cons b bs ih =>
    rcases ih h with h | h
    · rcases mem_storeCell h with rfl | h
      · right; simp only [List.length_cons]; omega
      · exact .inl h
    · right; simp only [List.length_cons]; omega

/-- A read after a write of one byte. -/
theorem readByte_writeByte (p : Params) (m : Memory) (a : Nat) (b : Byte) (k : Nat) :
    readByte p (writeByte m a b) k = if k = a then b else readByte p m k := by
  simp only [readByte, writeByte, lookupCell_storeCell]
  split_ifs <;> rfl

/-- A read after a write of a run of bytes. -/
theorem readByte_writeBytes (p : Params) (m : Memory) (a : Nat) (bs : List Byte) (k : Nat) :
    readByte p (writeBytes m a bs) k = if a ≤ k ∧ k < a + bs.length then bs.getD (k - a) 0 else readByte p m k := by
  simp only [readByte, lookupCell_writeBytes, writeBytes_seed]
  split_ifs with hin
  · have : k - a < bs.length := by omega
    simp [List.getElem?_eq_getElem this]
  · rfl

@[simp] theorem readBytes_length (p : Params) (m : Memory) (n : Nat) : (readBytes p m n).length = n := by
  simp [readBytes]

end Sys2Proof.Machine
end

