-- ==== Sys2Proof/Laws/PerInstr.lean ====
section
/-! SUPPORT. A fact about every instruction as syntax: its command word carries its opcode in `cw[15:8]` and its argument
in `cw[7:0]`, and the argument of a well-formed instruction is below ten (spec/30_encoding.md R90 to R93). -/

namespace Sys2Proof.Laws.CommandWord

/-- The fields of a well-formed instruction's command word. -/
def Statement (i : Instr) : Prop :=
  wellFormed i = true →
    opField (encode i) = opcodeOf i ∧ argField (encode i) = argumentOf i ∧ (argField (encode i)).toNat < 10

theorem stClr : Statement .stClr := by unfold Statement; decide
theorem theta : Statement .theta := by unfold Statement; decide
theorem rho : Statement .rho := by unfold Statement; decide
theorem pi : Statement .pi := by unfold Statement; decide
theorem chi : Statement .chi := by unfold Statement; decide
theorem iota (r : BitVec 4) : Statement (.iota r) := by unfold Statement; revert r; decide
theorem round (r : BitVec 4) : Statement (.round r) := by unfold Statement; revert r; decide
theorem permute : Statement .permute := by unfold Statement; decide
theorem hash : Statement .hash := by unfold Statement; decide
theorem eInit : Statement .eInit := by unfold Statement; decide
theorem eNext : Statement .eNext := by unfold Statement; decide
theorem search : Statement .search := by unfold Statement; decide

end Sys2Proof.Laws.CommandWord
end

