-- ==== Sys2Proof/Laws/State.lean ====
section
/-! SUPPORT. What each shared update does to each field of State, one lemma per field, so that no proof unfolds a record
update. -/

namespace Sys2Proof.Machine

open Sys2Proof.Config

/-! ### onLanes -/

@[simp] theorem onLanes_lanes (f : StateMatrix → StateMatrix) (s : State) :
    (onLanes f s).lanes = f s.lanes := rfl

@[simp] theorem onLanes_estate (f : StateMatrix → StateMatrix) (s : State) :
    (onLanes f s).estate = s.estate := rfl

@[simp] theorem onLanes_sstate (f : StateMatrix → StateMatrix) (s : State) :
    (onLanes f s).sstate = s.sstate := rfl

@[simp] theorem onLanes_dvalid (f : StateMatrix → StateMatrix) (s : State) :
    (onLanes f s).dvalid = s.dvalid := rfl

@[simp] theorem onLanes_fault (f : StateMatrix → StateMatrix) (s : State) :
    (onLanes f s).fault = s.fault := rfl

@[simp] theorem onLanes_cause (f : StateMatrix → StateMatrix) (s : State) :
    (onLanes f s).cause = s.cause := rfl

@[simp] theorem onLanes_xinfo (f : StateMatrix → StateMatrix) (s : State) :
    (onLanes f s).xinfo = s.xinfo := rfl

@[simp] theorem onLanes_msgLen (f : StateMatrix → StateMatrix) (s : State) :
    (onLanes f s).msgLen = s.msgLen := rfl

@[simp] theorem onLanes_alphaN (f : StateMatrix → StateMatrix) (s : State) :
    (onLanes f s).alphaN = s.alphaN := rfl

@[simp] theorem onLanes_tupleL (f : StateMatrix → StateMatrix) (s : State) :
    (onLanes f s).tupleL = s.tupleL := rfl

@[simp] theorem onLanes_resultLen (f : StateMatrix → StateMatrix) (s : State) :
    (onLanes f s).resultLen = s.resultLen := rfl

@[simp] theorem onLanes_elapsed (f : StateMatrix → StateMatrix) (s : State) :
    (onLanes f s).elapsed = s.elapsed := rfl

@[simp] theorem onLanes_msg (f : StateMatrix → StateMatrix) (s : State) :
    (onLanes f s).msg = s.msg := rfl

@[simp] theorem onLanes_alpha (f : StateMatrix → StateMatrix) (s : State) :
    (onLanes f s).alpha = s.alpha := rfl

@[simp] theorem onLanes_target (f : StateMatrix → StateMatrix) (s : State) :
    (onLanes f s).target = s.target := rfl

@[simp] theorem onLanes_digest (f : StateMatrix → StateMatrix) (s : State) :
    (onLanes f s).digest = s.digest := rfl

@[simp] theorem onLanes_idx (f : StateMatrix → StateMatrix) (s : State) :
    (onLanes f s).idx = s.idx := rfl

@[simp] theorem onLanes_cand (f : StateMatrix → StateMatrix) (s : State) :
    (onLanes f s).cand = s.cand := rfl

@[simp] theorem onLanes_result (f : StateMatrix → StateMatrix) (s : State) :
    (onLanes f s).result = s.result := rfl

@[simp] theorem onLanes_draws (f : StateMatrix → StateMatrix) (s : State) :
    (onLanes f s).draws = s.draws := rfl

@[simp] theorem onLanes_pending (f : StateMatrix → StateMatrix) (s : State) :
    (onLanes f s).pending = s.pending := rfl

@[simp] theorem onLanes_got (f : StateMatrix → StateMatrix) (s : State) :
    (onLanes f s).got = s.got := rfl

/-! ### raise -/

@[simp] theorem raise_lanes (x : Exception) (cw : Word) (s : State) :
    (raise x cw s).lanes = s.lanes := rfl

@[simp] theorem raise_estate (x : Exception) (cw : Word) (s : State) :
    (raise x cw s).estate = s.estate := rfl

@[simp] theorem raise_sstate (x : Exception) (cw : Word) (s : State) :
    (raise x cw s).sstate = s.sstate := rfl

@[simp] theorem raise_dvalid (x : Exception) (cw : Word) (s : State) :
    (raise x cw s).dvalid = s.dvalid := rfl

@[simp] theorem raise_fault (x : Exception) (cw : Word) (s : State) :
    (raise x cw s).fault = (s.fault || setsFault x) := rfl

@[simp] theorem raise_cause (x : Exception) (cw : Word) (s : State) :
    (raise x cw s).cause = some x := rfl

@[simp] theorem raise_xinfo (x : Exception) (cw : Word) (s : State) :
    (raise x cw s).xinfo = cw := rfl

@[simp] theorem raise_msgLen (x : Exception) (cw : Word) (s : State) :
    (raise x cw s).msgLen = s.msgLen := rfl

@[simp] theorem raise_alphaN (x : Exception) (cw : Word) (s : State) :
    (raise x cw s).alphaN = s.alphaN := rfl

@[simp] theorem raise_tupleL (x : Exception) (cw : Word) (s : State) :
    (raise x cw s).tupleL = s.tupleL := rfl

@[simp] theorem raise_resultLen (x : Exception) (cw : Word) (s : State) :
    (raise x cw s).resultLen = s.resultLen := rfl

@[simp] theorem raise_elapsed (x : Exception) (cw : Word) (s : State) :
    (raise x cw s).elapsed = s.elapsed := rfl

@[simp] theorem raise_msg (x : Exception) (cw : Word) (s : State) :
    (raise x cw s).msg = s.msg := rfl

@[simp] theorem raise_alpha (x : Exception) (cw : Word) (s : State) :
    (raise x cw s).alpha = s.alpha := rfl

@[simp] theorem raise_target (x : Exception) (cw : Word) (s : State) :
    (raise x cw s).target = s.target := rfl

@[simp] theorem raise_digest (x : Exception) (cw : Word) (s : State) :
    (raise x cw s).digest = s.digest := rfl

@[simp] theorem raise_idx (x : Exception) (cw : Word) (s : State) :
    (raise x cw s).idx = s.idx := rfl

@[simp] theorem raise_cand (x : Exception) (cw : Word) (s : State) :
    (raise x cw s).cand = s.cand := rfl

@[simp] theorem raise_result (x : Exception) (cw : Word) (s : State) :
    (raise x cw s).result = s.result := rfl

@[simp] theorem raise_draws (x : Exception) (cw : Word) (s : State) :
    (raise x cw s).draws = s.draws := rfl

@[simp] theorem raise_pending (x : Exception) (cw : Word) (s : State) :
    (raise x cw s).pending = s.pending := rfl

@[simp] theorem raise_got (x : Exception) (cw : Word) (s : State) :
    (raise x cw s).got = s.got := rfl

/-! ### forgetTuple -/

@[simp] theorem forgetTuple_lanes (s : State) :
    (forgetTuple s).lanes = s.lanes := rfl

@[simp] theorem forgetTuple_estate (s : State) :
    (forgetTuple s).estate = s.estate := rfl

@[simp] theorem forgetTuple_sstate (s : State) :
    (forgetTuple s).sstate = s.sstate := rfl

@[simp] theorem forgetTuple_dvalid (s : State) :
    (forgetTuple s).dvalid = s.dvalid := rfl

@[simp] theorem forgetTuple_fault (s : State) :
    (forgetTuple s).fault = s.fault := rfl

@[simp] theorem forgetTuple_cause (s : State) :
    (forgetTuple s).cause = s.cause := rfl

@[simp] theorem forgetTuple_xinfo (s : State) :
    (forgetTuple s).xinfo = s.xinfo := rfl

@[simp] theorem forgetTuple_msgLen (s : State) :
    (forgetTuple s).msgLen = s.msgLen := rfl

@[simp] theorem forgetTuple_alphaN (s : State) :
    (forgetTuple s).alphaN = s.alphaN := rfl

@[simp] theorem forgetTuple_tupleL (s : State) :
    (forgetTuple s).tupleL = s.tupleL := rfl

@[simp] theorem forgetTuple_resultLen (s : State) :
    (forgetTuple s).resultLen = s.resultLen := rfl

@[simp] theorem forgetTuple_elapsed (s : State) :
    (forgetTuple s).elapsed = s.elapsed := rfl

@[simp] theorem forgetTuple_msg (s : State) :
    (forgetTuple s).msg = s.msg := rfl

@[simp] theorem forgetTuple_alpha (s : State) :
    (forgetTuple s).alpha = s.alpha := rfl

@[simp] theorem forgetTuple_target (s : State) :
    (forgetTuple s).target = s.target := rfl

@[simp] theorem forgetTuple_digest (s : State) :
    (forgetTuple s).digest = s.digest := rfl

@[simp] theorem forgetTuple_idx (s : State) :
    (forgetTuple s).idx = Memory.unspecified s.draws := rfl

@[simp] theorem forgetTuple_cand (s : State) :
    (forgetTuple s).cand = Memory.unspecified (s.draws + 1) := rfl

@[simp] theorem forgetTuple_result (s : State) :
    (forgetTuple s).result = s.result := rfl

@[simp] theorem forgetTuple_draws (s : State) :
    (forgetTuple s).draws = s.draws + 2 := rfl

@[simp] theorem forgetTuple_pending (s : State) :
    (forgetTuple s).pending = s.pending := rfl

@[simp] theorem forgetTuple_got (s : State) :
    (forgetTuple s).got = s.got := rfl

/-! ### restartEnumerator -/

@[simp] theorem restartEnumerator_lanes (s : State) :
    (restartEnumerator s).lanes = s.lanes := rfl

@[simp] theorem restartEnumerator_estate (s : State) :
    (restartEnumerator s).estate = .notStarted := rfl

@[simp] theorem restartEnumerator_sstate (s : State) :
    (restartEnumerator s).sstate = s.sstate := rfl

@[simp] theorem restartEnumerator_dvalid (s : State) :
    (restartEnumerator s).dvalid = s.dvalid := rfl

@[simp] theorem restartEnumerator_fault (s : State) :
    (restartEnumerator s).fault = s.fault := rfl

@[simp] theorem restartEnumerator_cause (s : State) :
    (restartEnumerator s).cause = s.cause := rfl

@[simp] theorem restartEnumerator_xinfo (s : State) :
    (restartEnumerator s).xinfo = s.xinfo := rfl

@[simp] theorem restartEnumerator_msgLen (s : State) :
    (restartEnumerator s).msgLen = s.msgLen := rfl

@[simp] theorem restartEnumerator_alphaN (s : State) :
    (restartEnumerator s).alphaN = s.alphaN := rfl

@[simp] theorem restartEnumerator_tupleL (s : State) :
    (restartEnumerator s).tupleL = s.tupleL := rfl

@[simp] theorem restartEnumerator_resultLen (s : State) :
    (restartEnumerator s).resultLen = s.resultLen := rfl

@[simp] theorem restartEnumerator_elapsed (s : State) :
    (restartEnumerator s).elapsed = s.elapsed := rfl

@[simp] theorem restartEnumerator_msg (s : State) :
    (restartEnumerator s).msg = s.msg := rfl

@[simp] theorem restartEnumerator_alpha (s : State) :
    (restartEnumerator s).alpha = s.alpha := rfl

@[simp] theorem restartEnumerator_target (s : State) :
    (restartEnumerator s).target = s.target := rfl

@[simp] theorem restartEnumerator_digest (s : State) :
    (restartEnumerator s).digest = s.digest := rfl

@[simp] theorem restartEnumerator_idx (s : State) :
    (restartEnumerator s).idx = Memory.unspecified s.draws := rfl

@[simp] theorem restartEnumerator_cand (s : State) :
    (restartEnumerator s).cand = Memory.unspecified (s.draws + 1) := rfl

@[simp] theorem restartEnumerator_result (s : State) :
    (restartEnumerator s).result = s.result := rfl

@[simp] theorem restartEnumerator_draws (s : State) :
    (restartEnumerator s).draws = s.draws + 2 := rfl

@[simp] theorem restartEnumerator_pending (s : State) :
    (restartEnumerator s).pending = s.pending := rfl

@[simp] theorem restartEnumerator_got (s : State) :
    (restartEnumerator s).got = s.got := rfl

/-! ### exhaustTuples -/

@[simp] theorem exhaustTuples_lanes (s : State) :
    (exhaustTuples s).lanes = s.lanes := rfl

@[simp] theorem exhaustTuples_estate (s : State) :
    (exhaustTuples s).estate = .exhausted := rfl

@[simp] theorem exhaustTuples_sstate (s : State) :
    (exhaustTuples s).sstate = s.sstate := rfl

@[simp] theorem exhaustTuples_dvalid (s : State) :
    (exhaustTuples s).dvalid = s.dvalid := rfl

@[simp] theorem exhaustTuples_fault (s : State) :
    (exhaustTuples s).fault = s.fault := rfl

@[simp] theorem exhaustTuples_cause (s : State) :
    (exhaustTuples s).cause = s.cause := rfl

@[simp] theorem exhaustTuples_xinfo (s : State) :
    (exhaustTuples s).xinfo = s.xinfo := rfl

@[simp] theorem exhaustTuples_msgLen (s : State) :
    (exhaustTuples s).msgLen = s.msgLen := rfl

@[simp] theorem exhaustTuples_alphaN (s : State) :
    (exhaustTuples s).alphaN = s.alphaN := rfl

@[simp] theorem exhaustTuples_tupleL (s : State) :
    (exhaustTuples s).tupleL = s.tupleL := rfl

@[simp] theorem exhaustTuples_resultLen (s : State) :
    (exhaustTuples s).resultLen = s.resultLen := rfl

@[simp] theorem exhaustTuples_elapsed (s : State) :
    (exhaustTuples s).elapsed = s.elapsed := rfl

@[simp] theorem exhaustTuples_msg (s : State) :
    (exhaustTuples s).msg = s.msg := rfl

@[simp] theorem exhaustTuples_alpha (s : State) :
    (exhaustTuples s).alpha = s.alpha := rfl

@[simp] theorem exhaustTuples_target (s : State) :
    (exhaustTuples s).target = s.target := rfl

@[simp] theorem exhaustTuples_digest (s : State) :
    (exhaustTuples s).digest = s.digest := rfl

@[simp] theorem exhaustTuples_idx (s : State) :
    (exhaustTuples s).idx = Memory.unspecified s.draws := rfl

@[simp] theorem exhaustTuples_cand (s : State) :
    (exhaustTuples s).cand = Memory.unspecified (s.draws + 1) := rfl

@[simp] theorem exhaustTuples_result (s : State) :
    (exhaustTuples s).result = s.result := rfl

@[simp] theorem exhaustTuples_draws (s : State) :
    (exhaustTuples s).draws = s.draws + 2 := rfl

@[simp] theorem exhaustTuples_pending (s : State) :
    (exhaustTuples s).pending = s.pending := rfl

@[simp] theorem exhaustTuples_got (s : State) :
    (exhaustTuples s).got = s.got := rfl

/-! ### emit -/

@[simp] theorem emit_lanes (p : Params) (t : List Nat) (s : State) :
    (emit p t s).lanes = s.lanes := rfl

@[simp] theorem emit_estate (p : Params) (t : List Nat) (s : State) :
    (emit p t s).estate = .atTuple := rfl

@[simp] theorem emit_sstate (p : Params) (t : List Nat) (s : State) :
    (emit p t s).sstate = s.sstate := rfl

@[simp] theorem emit_dvalid (p : Params) (t : List Nat) (s : State) :
    (emit p t s).dvalid = s.dvalid := rfl

@[simp] theorem emit_fault (p : Params) (t : List Nat) (s : State) :
    (emit p t s).fault = s.fault := rfl

@[simp] theorem emit_cause (p : Params) (t : List Nat) (s : State) :
    (emit p t s).cause = s.cause := rfl

@[simp] theorem emit_xinfo (p : Params) (t : List Nat) (s : State) :
    (emit p t s).xinfo = s.xinfo := rfl

@[simp] theorem emit_msgLen (p : Params) (t : List Nat) (s : State) :
    (emit p t s).msgLen = s.msgLen := rfl

@[simp] theorem emit_alphaN (p : Params) (t : List Nat) (s : State) :
    (emit p t s).alphaN = s.alphaN := rfl

@[simp] theorem emit_tupleL (p : Params) (t : List Nat) (s : State) :
    (emit p t s).tupleL = s.tupleL := rfl

@[simp] theorem emit_resultLen (p : Params) (t : List Nat) (s : State) :
    (emit p t s).resultLen = s.resultLen := rfl

@[simp] theorem emit_elapsed (p : Params) (t : List Nat) (s : State) :
    (emit p t s).elapsed = s.elapsed := rfl

@[simp] theorem emit_msg (p : Params) (t : List Nat) (s : State) :
    (emit p t s).msg = s.msg := rfl

@[simp] theorem emit_alpha (p : Params) (t : List Nat) (s : State) :
    (emit p t s).alpha = s.alpha := rfl

@[simp] theorem emit_target (p : Params) (t : List Nat) (s : State) :
    (emit p t s).target = s.target := rfl

@[simp] theorem emit_digest (p : Params) (t : List Nat) (s : State) :
    (emit p t s).digest = s.digest := rfl

@[simp] theorem emit_idx (p : Params) (t : List Nat) (s : State) :
    (emit p t s).idx = writeBytes (Memory.unspecified s.draws) 0 (t.map (BitVec.ofNat 8)) := rfl

@[simp] theorem emit_cand (p : Params) (t : List Nat) (s : State) :
    (emit p t s).cand = writeBytes (Memory.unspecified (s.draws + 1)) 0 (candidateOf (symbol p s) t) := rfl

@[simp] theorem emit_result (p : Params) (t : List Nat) (s : State) :
    (emit p t s).result = s.result := rfl

@[simp] theorem emit_draws (p : Params) (t : List Nat) (s : State) :
    (emit p t s).draws = s.draws + 2 := rfl

@[simp] theorem emit_pending (p : Params) (t : List Nat) (s : State) :
    (emit p t s).pending = s.pending := rfl

@[simp] theorem emit_got (p : Params) (t : List Nat) (s : State) :
    (emit p t s).got = s.got := rfl

/-! ### receive -/

@[simp] theorem receive_lanes (v : BitVec 64) (s : State) :
    (receive v s).lanes = s.lanes := rfl

@[simp] theorem receive_estate (v : BitVec 64) (s : State) :
    (receive v s).estate = s.estate := rfl

@[simp] theorem receive_sstate (v : BitVec 64) (s : State) :
    (receive v s).sstate = s.sstate := rfl

@[simp] theorem receive_dvalid (v : BitVec 64) (s : State) :
    (receive v s).dvalid = s.dvalid := rfl

@[simp] theorem receive_fault (v : BitVec 64) (s : State) :
    (receive v s).fault = s.fault := rfl

@[simp] theorem receive_cause (v : BitVec 64) (s : State) :
    (receive v s).cause = s.cause := rfl

@[simp] theorem receive_xinfo (v : BitVec 64) (s : State) :
    (receive v s).xinfo = s.xinfo := rfl

@[simp] theorem receive_msgLen (v : BitVec 64) (s : State) :
    (receive v s).msgLen = s.msgLen := rfl

@[simp] theorem receive_alphaN (v : BitVec 64) (s : State) :
    (receive v s).alphaN = s.alphaN := rfl

@[simp] theorem receive_tupleL (v : BitVec 64) (s : State) :
    (receive v s).tupleL = s.tupleL := rfl

@[simp] theorem receive_resultLen (v : BitVec 64) (s : State) :
    (receive v s).resultLen = s.resultLen := rfl

@[simp] theorem receive_elapsed (v : BitVec 64) (s : State) :
    (receive v s).elapsed = s.elapsed := rfl

@[simp] theorem receive_msg (v : BitVec 64) (s : State) :
    (receive v s).msg = s.msg := rfl

@[simp] theorem receive_alpha (v : BitVec 64) (s : State) :
    (receive v s).alpha = s.alpha := rfl

@[simp] theorem receive_target (v : BitVec 64) (s : State) :
    (receive v s).target = s.target := rfl

@[simp] theorem receive_digest (v : BitVec 64) (s : State) :
    (receive v s).digest = s.digest := rfl

@[simp] theorem receive_idx (v : BitVec 64) (s : State) :
    (receive v s).idx = s.idx := rfl

@[simp] theorem receive_cand (v : BitVec 64) (s : State) :
    (receive v s).cand = s.cand := rfl

@[simp] theorem receive_result (v : BitVec 64) (s : State) :
    (receive v s).result = s.result := rfl

@[simp] theorem receive_draws (v : BitVec 64) (s : State) :
    (receive v s).draws = s.draws := rfl

@[simp] theorem receive_pending (v : BitVec 64) (s : State) :
    (receive v s).pending = s.pending := rfl

@[simp] theorem receive_got (v : BitVec 64) (s : State) :
    (receive v s).got = v :: s.got := rfl

/-! ### hostReset -/

@[simp] theorem hostReset_lanes (p : Params) (s : State) :
    (hostReset p s).lanes = (State.resetWith p s.draws).lanes := rfl

@[simp] theorem hostReset_estate (p : Params) (s : State) :
    (hostReset p s).estate = (State.resetWith p s.draws).estate := rfl

@[simp] theorem hostReset_sstate (p : Params) (s : State) :
    (hostReset p s).sstate = (State.resetWith p s.draws).sstate := rfl

@[simp] theorem hostReset_dvalid (p : Params) (s : State) :
    (hostReset p s).dvalid = (State.resetWith p s.draws).dvalid := rfl

@[simp] theorem hostReset_fault (p : Params) (s : State) :
    (hostReset p s).fault = (State.resetWith p s.draws).fault := rfl

@[simp] theorem hostReset_cause (p : Params) (s : State) :
    (hostReset p s).cause = (State.resetWith p s.draws).cause := rfl

@[simp] theorem hostReset_xinfo (p : Params) (s : State) :
    (hostReset p s).xinfo = (State.resetWith p s.draws).xinfo := rfl

@[simp] theorem hostReset_msgLen (p : Params) (s : State) :
    (hostReset p s).msgLen = (State.resetWith p s.draws).msgLen := rfl

@[simp] theorem hostReset_alphaN (p : Params) (s : State) :
    (hostReset p s).alphaN = (State.resetWith p s.draws).alphaN := rfl

@[simp] theorem hostReset_tupleL (p : Params) (s : State) :
    (hostReset p s).tupleL = (State.resetWith p s.draws).tupleL := rfl

@[simp] theorem hostReset_resultLen (p : Params) (s : State) :
    (hostReset p s).resultLen = (State.resetWith p s.draws).resultLen := rfl

@[simp] theorem hostReset_elapsed (p : Params) (s : State) :
    (hostReset p s).elapsed = (State.resetWith p s.draws).elapsed := rfl

@[simp] theorem hostReset_msg (p : Params) (s : State) :
    (hostReset p s).msg = (State.resetWith p s.draws).msg := rfl

@[simp] theorem hostReset_alpha (p : Params) (s : State) :
    (hostReset p s).alpha = (State.resetWith p s.draws).alpha := rfl

@[simp] theorem hostReset_target (p : Params) (s : State) :
    (hostReset p s).target = (State.resetWith p s.draws).target := rfl

@[simp] theorem hostReset_digest (p : Params) (s : State) :
    (hostReset p s).digest = (State.resetWith p s.draws).digest := rfl

@[simp] theorem hostReset_idx (p : Params) (s : State) :
    (hostReset p s).idx = (State.resetWith p s.draws).idx := rfl

@[simp] theorem hostReset_cand (p : Params) (s : State) :
    (hostReset p s).cand = (State.resetWith p s.draws).cand := rfl

@[simp] theorem hostReset_result (p : Params) (s : State) :
    (hostReset p s).result = (State.resetWith p s.draws).result := rfl

@[simp] theorem hostReset_draws (p : Params) (s : State) :
    (hostReset p s).draws = (State.resetWith p s.draws).draws := rfl

@[simp] theorem hostReset_pending (p : Params) (s : State) :
    (hostReset p s).pending = s.pending := rfl

@[simp] theorem hostReset_got (p : Params) (s : State) :
    (hostReset p s).got = s.got := rfl

end Sys2Proof.Machine
end

