-- ==== Sys2Proof/Tests/Slice0.lean ====
section
/-! SUPPORT. Tests of the model against the vectors of spec/95_test_vectors.md, and a witness for the hypotheses of each
statement. Expected values are the spec's; a test on a given table of round constants uses the TEST-ONLY tables of its
section 4, which are not the hardware's. -/

namespace Sys2Proof.Tests

open Sys2Proof.Machine Sys2Proof.Config

/-! ### What the tests run on -/

/-- The TEST-ONLY table RCT (section 4). -/
def rct : Fin 10 → Word := fun r => BitVec.ofNat 16 (0x1000 * (r.val + 1) + r.val)

/-- The TEST-ONLY table RCZ (section 4). -/
def rcz : Fin 10 → Word := fun _ => 0

/-- Parameters for tests: two workers, MSG_MAX 48000, L_MAX 6, every free value zero. -/
def params (rc : Fin 10 → Word) : Params where
  rc := rc
  workersLess1 := 1
  msgMax := 48000
  lMaxLess1 := 5
  drawByte := fun _ _ => 0
  drawElapsed := fun _ => 0
  drawLane := fun _ _ _ => 0
  schedule := fun _ i => 7 * i + 1

/-- The reset state with these test parameters. -/
def blank : State := State.resetWith (params rct) 0

/-- RAMP: lane number k holds (0x0100·(k+1)) OR (0xFF − k) (V4). -/
def ramp : StateMatrix := matrixOf fun i j =>
  BitVec.ofNat 16 (0x0100 * (5 * i.val + j.val + 1)) ||| BitVec.ofNat 16 (0xFF - (5 * i.val + j.val))

/-- The matrix of five rows of words, as the spec's tables print it. -/
def rows (r0 r1 r2 r3 r4 : List Nat) : StateMatrix :=
  matrixOf fun i j => BitVec.ofNat 16 (([r0, r1, r2, r3, r4].getD i.val []).getD j.val 0)

/-- A message loaded from offset 0 (LOADMSG). -/
def withMessage (bs : List Byte) : State :=
  { blank with msg := writeBytes blank.msg 0 bs, msgLen := BitVec.ofNat 32 bs.length }

/-- An alphabet and a length loaded (LOADALPHA, SET TUPLE_L). -/
def withAlphabet (bs : List Byte) (L : Nat) : State :=
  { blank with
    alpha := writeBytes blank.alpha 0 bs
    alphaN := BitVec.ofNat 16 bs.length
    tupleL := BitVec.ofNat 16 L }

/-- The enumerator standing at a tuple. -/
def standingAt (bs : List Byte) (t : List Nat) : State :=
  { withAlphabet bs t.length with estate := .atTuple, idx := writeBytes blank.idx 0 (t.map (BitVec.ofNat 8)) }

/-- A search loaded: alphabet, length, target. -/
def withTarget (bs : List Byte) (L : Nat) (target : List Byte) : State :=
  { withAlphabet bs L with target := writeBytes blank.target 0 target }

/-! ### Well-formedness (R92, R93) -/

theorem test_wellFormed_iota_nine : wellFormed (.iota 9) = true := by decide
theorem test_illFormed_iota_ten : wellFormed (.iota 10) = false := by decide
theorem test_illFormed_round_fifteen : wellFormed (.round 15) = false := by decide

/-! ### Decoding and encoding (V27) -/

theorem test_decode_stClr : decode 0b0000000100000000 = .ok .stClr := by decide
theorem test_decode_theta : decode 0b0000001000000000 = .ok .theta := by decide
theorem test_decode_rho : decode 0b0000001100000000 = .ok .rho := by decide
theorem test_decode_pi : decode 0b0000010000000000 = .ok .pi := by decide
theorem test_decode_chi : decode 0b0000010100000000 = .ok .chi := by decide
theorem test_decode_iota : decode 0b0000011000000111 = .ok (.iota 7) := by decide
theorem test_decode_round : decode 0b0000011100001001 = .ok (.round 9) := by decide
theorem test_decode_permute : decode 0b0000100000000000 = .ok .permute := by decide
theorem test_decode_hash : decode 0b0001000000000000 = .ok .hash := by decide
theorem test_decode_eInit : decode 0b0010000000000000 = .ok .eInit := by decide
theorem test_decode_eNext : decode 0b0010000100000000 = .ok .eNext := by decide
theorem test_decode_search : decode 0b0011000000000000 = .ok .search := by decide
theorem test_decode_illegal :
    ([0x0000, 0x0101, 0x02FF, 0x060A, 0x060F, 0x0710, 0x0713, 0x0900, 0x1100, 0x1001, 0x2200, 0x3100, 0x8000,
      0xFFFF] : List Word).all (fun w => (decode w).toOption.isNone) = true := by decide +kernel
theorem test_encode_round_three : encode (.round 3) = 0x0703 := by decide
theorem test_encode_iota_nine : encode (.iota 9) = 0x0609 := by decide
theorem test_decodeTableWord : decodeTableWord 16 0x0703 = some (.round 3) := by decide
theorem test_step_runs_fetched : step (State.reset.withFetchWord 16 0x2000) = exec .eInit State.reset := by rfl

/-! ### Lanes (V1 to V9, V14) -/

theorem test_rotl16 : rotl16 0x8001 1 = 0x0003 ∧ rotl16 0x8001 0 = 0x8001 ∧ rotl16 0x8001 15 = 0xC000 ∧
    rotl16 0x1234 8 = 0x3412 ∧ rotl16 0x1234 4 = 0x2341 ∧ rotl16 0x4000 2 = 0x0001 := by decide

theorem test_lane_order : lane (setLane StateMatrix.zero (laneRow 7) (laneColumn 7) 5) 1 2 = 5 := by decide

theorem test_stClr : exec .stClr { blank with lanes := ramp } = .next blank := by rfl

/-- V4. -/
theorem test_theta_ramp : thetaStage ramp =
    rows [0x01EC, 0x02ED, 0x03EE, 0x04EF, 0x05E8] [0x10E3, 0x11E0, 0x1EE1, 0x1FEE, 0x1CEF]
      [0x28EF, 0x2FEE, 0x2EE9, 0x2DE8, 0x2CEB] [0x30CF, 0x31D0, 0x32D1, 0x33D2, 0x34D3]
      [0x02ED, 0x01EC, 0x00EF, 0x0FEE, 0x0EE1] := by decide

/-- V3: bit 15 wraps to bit 0. -/
theorem test_theta_high_bit : thetaStage (setLane StateMatrix.zero 2 3 0x8000) =
    rows [0, 0, 0, 0, 0] [1, 1, 1, 1, 1] [0, 0, 0, 0x8000, 0] [0x8000, 0x8000, 0x8000, 0x8000, 0x8000]
      [0, 0, 0, 0, 0] := by decide

/-- V5. -/
theorem test_rho_ramp : rhoStage ramp =
    rows [0x01FF, 0x05FC, 0x0FF4, 0x27E0, 0x5FB0] [0x7D03, 0xF907, 0xF011, 0xDC27, 0xB057]
      [0x42FD, 0x067A, 0x0DF3, 0x1DE4, 0x3FC4] [0x1E02, 0x7BC4, 0x7709, 0xED13, 0xD829]
      [0xB15E, 0x42DD, 0x45FA, 0x0C74, 0x19E7] := by decide

/-- V5. -/
theorem test_pi_ramp : piStage ramp =
    rows [0x01FF, 0x07F9, 0x0DF3, 0x13ED, 0x19E7] [0x04FC, 0x0AF6, 0x0BF5, 0x11EF, 0x17E9]
      [0x02FE, 0x08F8, 0x0EF2, 0x14EC, 0x15EB] [0x05FB, 0x06FA, 0x0CF4, 0x12EE, 0x18E8]
      [0x03FD, 0x09F7, 0x0FF1, 0x10F0, 0x16EA] := by decide

/-- V9. -/
theorem test_pi_lane_numbers : piStage (matrixOf fun i j => BitVec.ofNat 16 (5 * i.val + j.val)) =
    rows [0, 6, 12, 18, 24] [3, 9, 10, 16, 22] [1, 7, 13, 19, 20] [4, 5, 11, 17, 23] [2, 8, 14, 15, 21] := by decide

/-- V5. -/
theorem test_chi_ramp : chiStage ramp =
    rows [0x08FA, 0x0AFA, 0x06FE, 0x02FC, 0x00FA] [0x16FA, 0x16F2, 0x1AF4, 0x18FA, 0x1AFA]
      [0x0EFE, 0x0AF4, 0x08F2, 0x06F2, 0x06F2] [0x10E4, 0x11FB, 0x12FA, 0x17F9, 0x10F4]
      [0x13EB, 0x13EB, 0x1FE9, 0x11EB, 0x13E3] := by decide

/-- V6: the whole round on RAMP, and R117's example of IOTA 3. -/
theorem test_round_ramp : roundStage rct 3 ramp =
    rows [0x416D, 0x6209, 0x3F29, 0x5052, 0x1EE5] [0x7D78, 0x4967, 0xCE1C, 0x3C9C, 0xC7EA]
      [0x04E2, 0x4A4A, 0xFBD8, 0xB70F, 0x5026] [0x5EC4, 0x3188, 0x1BB6, 0xAA88, 0x0937]
      [0x29A8, 0xA099, 0x73BE, 0x3DEA, 0x4027] := by decide

theorem test_iota : lane (iotaStage rct 3 (setLane StateMatrix.zero 0 0 0x016E)) 0 0 = 0x416D := by decide

/-- V14. -/
theorem test_permute_zero_rct : permuteStage rct StateMatrix.zero =
    rows [0x9E9F, 0xB410, 0xB138, 0x1004, 0x7FDC] [0xFF2B, 0xB2D8, 0xE8F6, 0x2C2C, 0x1E0F]
      [0xA97B, 0xCB56, 0x8138, 0x63FD, 0xA250] [0x1A8F, 0x75D1, 0x85A5, 0x8EB8, 0x8C28]
      [0x1384, 0xCE26, 0xFF66, 0x1E70, 0x19A6] := by decide +kernel

/-- V15. -/
theorem test_permute_ramp_rcz : lane (permuteStage rcz ramp) 0 0 = 0xBA05 ∧ lane (permuteStage rcz ramp) 4 4 = 0xB637 := by
  decide +kernel

/-! ### HASH (V10 to V13, V16, V29) -/

theorem test_blocks : [0, 19, 20, 39, 40, 48000].map blockCount = [1, 1, 2, 2, 3, 2401] := by decide

/-- V12: nineteen bytes 01 .. 13, the marker in the last byte of the block. -/
theorem test_absorb : absorbBlock ((List.range 19).map fun k => BitVec.ofNat 8 (k + 1)) 0 StateMatrix.zero =
    rows [0x0102, 0x0304, 0x0506, 0x0708, 0x090A] [0x0B0C, 0x0D0E, 0x0F10, 0x1112, 0x1380] [] [] [] := by decide

/-- V16, P = 6. -/
theorem test_hash_AbCxYz : hashOf rct [0x41, 0x62, 0x43, 0x78, 0x59, 0x7A] =
    [0x80, 0x0F, 0x16, 0xF8, 0x7D, 0x94, 0x20, 0x70, 0x08, 0x51, 0x1D, 0x89, 0xCD, 0x0D, 0x83, 0xF9] := by
  decide +kernel

/-- V16, P = 20: an aligned input gets a whole extra block. -/
theorem test_hash_two_blocks : hashOf rct (List.replicate 20 0x61) =
    [0xDC, 0xC2, 0x4B, 0xE7, 0xE1, 0xD8, 0xDB, 0xAC, 0x6B, 0x2D, 0xF9, 0x5F, 0x4A, 0x0D, 0xFB, 0x38] := by
  decide +kernel

/-- P2: the command writes DIGEST and STATUS, and leaves the second matrix in the lanes. -/
theorem test_hash_command :
    readBytes (params rct) (hashCommand (params rct) (withMessage [0x41, 0x62, 0x43, 0x78, 0x59, 0x7A])).digest 2 =
      [0x80, 0x0F] ∧
    statusWord (hashCommand (params rct) (withMessage [0x41, 0x62, 0x43, 0x78, 0x59, 0x7A])) = 0x0010 ∧
    lane (hashCommand (params rct) (withMessage [0x41, 0x62, 0x43, 0x78, 0x59, 0x7A])).lanes 4 4 = 0x0983 := by
  decide +kernel

/-- V29 (c). -/
theorem test_hash_too_long : hashCommand (params rct) { blank with msgLen := 48001 } =
    { blank with msgLen := 48001, cause := some .badParameter, xinfo := 0x1000, fault := true } := by decide

/-! ### Enumerator (V20 to V23, V29, P4) -/

theorem test_eInit : (restartEnumerator (standingAt [0x61, 0x62] [1, 0])).estate = .notStarted := by decide

/-- V20, N = 3 and L = 2. -/
theorem test_advance_order : [[0, 0], [1, 0], [2, 0], [0, 1], [2, 1], [1, 2], [2, 2]].map (advance 3) =
    [some [1, 0], some [2, 0], some [0, 1], some [1, 1], some [0, 2], some [2, 2], none] := by decide

/-- V23. -/
theorem test_advance_carries : advance 3 [2, 2, 0, 1] = some [0, 0, 1, 1] ∧ advance 3 [2, 2, 2, 2] = none := by decide

/-- V22: ALPHA = "zyx"; the first two candidates are 7A 7A and 79 7A. -/
theorem test_eNext_candidates :
    readBytes (params rct) (nextTuple (params rct) (withAlphabet [0x7A, 0x79, 0x78] 2)).cand 2 = [0x7A, 0x7A] ∧
    readBytes (params rct) (nextTuple (params rct) (standingAt [0x7A, 0x79, 0x78] [0, 0])).cand 2 = [0x79, 0x7A] := by
  decide

/-- V29 (a). -/
theorem test_eNext_zero_length : nextTuple (params rct) { blank with tupleL := 0, alphaN := 2 } =
    { blank with tupleL := 0, alphaN := 2, cause := some .badParameter, xinfo := 0x2100, fault := true } := by decide

/-- V20, N = 0. -/
theorem test_eNext_empty_alphabet : (nextTuple (params rct) (withAlphabet [] 2)).estate = .exhausted := by decide

/-! ### SEARCH (V24, V25, V30) -/

/-- V24: the digest of "ba" under RCT, two workers. -/
theorem test_search_found :
    let t := searchCommand (params rct) (withTarget [0x61, 0x62] 2
      [0x17, 0x63, 0xD6, 0x0D, 0xE6, 0xF3, 0x82, 0x89, 0x24, 0x24, 0x55, 0x4E, 0xE8, 0x50, 0x50, 0x8A])
    readBytes (params rct) t.result 2 = [0x62, 0x61] ∧ statusWord t = 0x0004 ∧ t.resultLen = 2 ∧ causeWord t = 0 := by
  decide +kernel

/-- V25: the digest of "zz" under RCT is no candidate's. -/
theorem test_search_exhausted :
    let t := searchCommand (params rct) (withTarget [0x61, 0x62] 2
      [0xC2, 0xC3, 0x4A, 0xB4, 0xD9, 0x18, 0x9E, 0xA0, 0x50, 0x89, 0x67, 0x88, 0xD2, 0x5D, 0x6E, 0xFF])
    statusWord t = 0x0008 ∧ t.resultLen = 0 ∧ causeWord t = 1 ∧ t.xinfo = 0x3000 := by
  decide +kernel

/-! ### Host actions (V28, V30, P6) -/

/-- V28. -/
theorem test_illegal_word : takeAction (params rct) { blank with pending := [.setReg 0 0x070A] } =
    .next { blank with cause := some .illegalCommand, xinfo := 0x070A, fault := true } := by rfl

theorem test_status_after_illegal : statusWord { blank with cause := some .illegalCommand, fault := true } = 0x0020 := by
  decide

theorem test_setReg_alphaN :
    hostAction (params rct) (.setReg 5 0x0002) (standingAt [0x61] [0]) =
      .next (restartEnumerator { standingAt [0x61] [0] with alphaN := 2 }) := by rfl

theorem test_getReg_xinfo :
    hostAction (params rct) (.getReg 3) { blank with xinfo := 0x2100 } =
      .next { blank with xinfo := 0x2100, got := [0x2100] } := by rfl

theorem test_byte_outside_space : hostAction (params rct) (.getByte .digest 16) blank = .fault (.noSuchElement .digest 16) := by
  rfl

/-! ### Assembler text (R97, R98) -/

theorem test_assemble_alpha : assembleLine "LOADALPHA \"ab\" ; P4".toList =
    some [.setByte .alpha 0 0x61, .setByte .alpha 1 0x62, .setReg 5 2] := by decide
theorem test_assemble_set : assembleLine "SET TUPLE_L = 2".toList = some [.setReg 6 2] := by decide
theorem test_assemble_digest_get : assembleLine "GET DIGEST[15]".toList = some [.getByte .digest 15] := by decide
theorem test_assemble_range : (assembleLine "GET DIGEST[0] .. GET DIGEST[15]".toList).map (fun as => (as.length, as.getLast?)) =
    some (16, some (.getByte .digest 15)) := by decide
theorem test_assemble_target : (assembleLine
    "LOADTARGET 17 63 D6 0D E6 F3 82 89 24 24 55 4E E8 50 50 8A".toList).map (·.getLast?) =
      some (some (.setByte .target 15 0x8A)) := by decide

/-! ### Witnesses: a state and operands that meet the hypotheses of each statement -/

theorem witness_EncodedInstructionDecodesToItself :
    wellFormed (.iota 9) = true ∧ wellFormed (.round 0) = true ∧ wellFormed .search = true := by decide

theorem witness_LegalWordIsItsInstructionsWord : decode 0x0709 = .ok (.round 9) := by decide

theorem witness_StepRunsTheDecodedCommand :
    ((State.reset.withFetchWord 16 0x3000).pending = .setReg 0 0x3000 :: [] ∧ decode 0x3000 = .ok .search) ∧
    State.reset.pending = [] := ⟨⟨rfl, by decide⟩, rfl⟩

theorem witness_IllegalWordOnlyRaises :
    (State.reset.withFetchWord 16 0x070A).pending = .setReg 0 0x070A :: [] ∧
    (BitVec.setWidth 16 (0x070A : BitVec 64) : Word) ∉ legalWords := ⟨rfl, by decide⟩

theorem witness_RotationIsTheArithmeticOne : (0 : Nat) < 16 ∧ (15 : Nat) < 16 := by decide

theorem witness_ThetaXorsNeighbourParities : ∃ c : Fin 5 → Word, ∀ i, c i =
    lane ramp i 0 ^^^ lane ramp i 1 ^^^ lane ramp i 2 ^^^ lane ramp i 3 ^^^ lane ramp i 4 := ⟨_, fun _ => rfl⟩

theorem witness_RoundIsTheFiveStagesInOrder : ∀ i j, lane State.reset.lanes i j = 0 := fun i j => lane_zero i j

theorem witness_PermutationCommandsTouchOnlyLanes :
    ((∃ t, exec .theta State.reset = .next t) ∧ Instr.theta ∈ [Instr.stClr, .theta, .rho, .pi, .chi, .permute]) ∧
    (∃ (k : Fin 10) (t : State), exec (.iota (roundArg k)) State.reset = .next t) ∧
    (∃ (k : Fin 10) (t : State), exec (.round (roundArg k)) State.reset = .next t) :=
  ⟨⟨⟨_, rfl⟩, by decide⟩, ⟨9, _, rfl⟩, ⟨0, _, rfl⟩⟩

theorem witness_PermuteIsInjective : ∃ A B, permuteStage rct A = permuteStage rct B := ⟨ramp, ramp, rfl⟩

theorem witness_IllegalRoundIndexOnlyRaises : 10 ≤ (10 : BitVec 4).toNat ∧ 10 ≤ (15 : BitVec 4).toNat := by decide

theorem witness_PaddingIsTheMarkerThenZeros : (20 : Nat) % 20 = 0 ∧ (List.replicate 19 (0 : Byte)).length < 20 := by decide

theorem witness_PaddingIsInjective : ∃ x y, paddedStream x = paddedStream y := ⟨[0x80], [0x80], rfl⟩

theorem witness_AbsorptionXorsBigEndianWords : (0 : Nat) < 10 ∧ (9 : Nat) < 10 ∧ 2 ≤ (2 : Fin 5).val ∧ 2 ≤ (4 : Fin 5).val := by
  decide

/-- Two blocks, the longest message, and the shortest one that does not fit. -/
theorem witness_HashRunsTheSponge :
    (withMessage (List.replicate 20 0x61)).msgLen.toNat ≤ (params rct).msgMax ∧
    ({ blank with msgLen := 48000 } : State).msgLen.toNat ≤ (params rct).msgMax ∧
    State.reset.msgLen.toNat ≤ Config.hw.msgMax := ⟨by decide, by decide, Nat.zero_le _⟩

theorem witness_HashTouchesOnlyItsResults : ∃ p s t, s.msgLen.toNat ≤ p.msgMax ∧ t = hashCommand p s ∧ 16 ≤ 16 :=
  ⟨params rct, withMessage [0x61], _, by decide, rfl, le_refl _⟩

theorem witness_HashTooLongOnlyRaises : (params rct).msgMax < ({ blank with msgLen := 48001 } : State).msgLen.toNat := by
  decide

theorem witness_HashTwiceGivesTheSameDigest :
    ∃ p s t u, s.msgLen.toNat ≤ p.msgMax ∧ t = hashCommand p s ∧ u = hashCommand p t :=
  ⟨params rct, withMessage [0x61], _, _, by decide, rfl, rfl⟩

theorem witness_HashDependsOnlyOnTheMessage : ∃ p s s' t t', s.msgLen.toNat ≤ p.msgMax ∧ s'.msgLen = s.msgLen ∧
    (∀ k, k < s.msgLen.toNat → byteAt p s' .msg k = byteAt p s .msg k) ∧ t = hashCommand p s ∧ t' = hashCommand p s' ∧
    s' ≠ s :=
  ⟨params rct, withMessage [0x61], { withMessage [0x61] with lanes := ramp }, _, _, by decide, rfl, fun _ _ => rfl, rfl, rfl,
    by decide⟩

theorem witness_FirstNextEmitsTheZeroTuple :
    (¬TupleParameterBad (params rct) (withAlphabet [0x61, 0x62] 2) ∧
      (withAlphabet [0x61, 0x62] 2).estate = .notStarted ∧ (withAlphabet [0x61, 0x62] 2).alphaN ≠ 0) ∧
    (¬TupleParameterBad (params rct) (withAlphabet [] 6) ∧ (withAlphabet [] 6).estate = .notStarted ∧
      (withAlphabet [] 6).alphaN = 0) := by decide

/-- V23: slots 0 and 1 stand at N − 1, slot 2 can be incremented, slot 3 follows it. -/
theorem witness_NextAdvancesTheLeastSlot :
    let s := standingAt [0x61, 0x62, 0x63] [2, 2, 0, 1]
    ¬TupleParameterBad (params rct) s ∧ s.estate = .atTuple ∧ 2 < s.tupleL.toNat ∧
      (byteAt (params rct) s .idx 2).toNat + 1 < s.alphaN.toNat ∧
      (∀ q, q < 2 → s.alphaN.toNat ≤ (byteAt (params rct) s .idx q).toNat + 1) := by decide

/-- The last tuple of a space of nine. -/
def atLast : State := standingAt [0x61, 0x62, 0x63] [2, 2]

theorem witness_NextAfterTheLastTuple :
    (¬TupleParameterBad (params rct) atLast ∧ atLast.estate = .atTuple ∧
      ∀ q, q < atLast.tupleL.toNat → atLast.alphaN.toNat ≤ (byteAt (params rct) atLast .idx q).toNat + 1) ∧
    (¬TupleParameterBad (params rct) { withAlphabet [0x61] 1 with estate := .exhausted }) := by decide

theorem witness_NextTouchesOnlyTheTuple :
    ¬TupleParameterBad (params rct) (standingAt [0x61] [0]) ∧ ¬TupleParameterBad Config.hw State.reset := by
  refine ⟨by decide, ?_⟩
  simp [TupleParameterBad, State.reset, State.resetWith, alphabetSize, tupleLength, Params.lMax]

theorem witness_BadTupleParametersOnlyRaise :
    256 < ({ blank with alphaN := 257 } : State).alphaN.toNat ∧ ({ blank with tupleL := 0 } : State).tupleL.toNat = 0 ∧
    (params rct).lMax < ({ blank with tupleL := 7 } : State).tupleL.toNat := by decide

theorem witness_AdvanceCountsInBaseN : 0 < 3 ∧ 8 < 3 ^ 2 ∧ 0 < 3 ^ 2 := by decide

theorem witness_EnumerationIsComplete :
    ¬TupleParameterBad (params rct) (withAlphabet [0x61, 0x62] 2) ∧ (withAlphabet [0x61, 0x62] 2).alphaN ≠ 0 ∧
    (withAlphabet [0x61, 0x62] 2).estate = .notStarted ∧
    3 < (withAlphabet [0x61, 0x62] 2).alphaN.toNat ^ (withAlphabet [0x61, 0x62] 2).tupleL.toNat := by decide

/-- The start of a search meets the invariant, and a claim is enabled there. -/
theorem witness_WorkerStepsKeepTheirInvariant :
    stepEnabled (searchInput (params rct) (withAlphabet [0x61] 1)) (startWorkers (params rct) 0) (.claim 1 [0]) = true ∧
    WorkersInv (searchInput (params rct) (withAlphabet [0x61] 1)) (startWorkers (params rct) 0) := by
  refine ⟨by decide, by decide, by decide, by decide, ?_, ?_, ?_, ?_⟩
  · intro u hu t ht
    simp only [startWorkers, List.mem_map] at hu
    obtain ⟨w, -, rfl⟩ := hu
    cases ht
  · intro v w t hv
    simp only [startWorkers, List.getElem?_map] at hv
    cases h : (List.range (params rct).workers)[v]? <;> rw [h] at hv <;> cases hv
  · intro c hc; cases hc
  · intro _ t ht; cases ht

/-- A state whose target is a candidate's digest, under RCT ("ba", V24). -/
def matching : State := withTarget [0x61, 0x62] 2
  [0x17, 0x63, 0xD6, 0x0D, 0xE6, 0xF3, 0x82, 0x89, 0x24, 0x24, 0x55, 0x4E, 0xE8, 0x50, 0x50, 0x8A]

theorem witness_IsCandidate : IsCandidate (params rct) matching [0x62, 0x61] := by
  refine ⟨rfl, fun b hb => ?_⟩
  rcases List.mem_cons.1 hb with rfl | hb
  · exact ⟨1, by decide, by decide⟩
  · rcases List.mem_cons.1 hb with rfl | hb
    · exact ⟨0, by decide, by decide⟩
    · cases hb

theorem witness_EveryMatchIsSomeSchedulesResult : IsMatch (params rct) matching [0x62, 0x61] :=
  ⟨witness_IsCandidate, by decide +kernel⟩

/-- Found and NotFound both have a state: "ba" is a match of `matching`, and an empty alphabet has none. -/
theorem witness_SearchAnswersTheRelation :
    (¬TupleParameterBad (params rct) matching ∧ ∃ c, IsMatch (params rct) matching c) ∧
    (¬TupleParameterBad (params rct) (withAlphabet [] 1) ∧ ¬∃ c, IsMatch (params rct) (withAlphabet [] 1) c) := by
  refine ⟨⟨by decide, _, witness_EveryMatchIsSomeSchedulesResult⟩, by decide, ?_⟩
  rintro ⟨c, ⟨hl, hc⟩, -⟩
  cases c with
  | nil => cases hl
  | cons b bs =>
    obtain ⟨n, hn, -⟩ := hc b List.mem_cons_self
    exact absurd hn (Nat.not_lt_zero n)

theorem witness_SearchRunImplementsTheRelation :
    (searchRun (params rct) 0 matching).slot = some [0x62, 0x61] ∧ (searchRun (params rct) 0 (withAlphabet [] 1)).slot = none := by
  decide +kernel

theorem witness_SearchTouchesOnlyItsResult : ¬TupleParameterBad (params rct) matching := by decide

/-- With one candidate in the space there is at most one match. -/
theorem witness_SearchOutcomeIgnoresTheSchedule :
    ¬TupleParameterBad (params rct) (withAlphabet [0x61] 1) ∧
    ∀ c c', IsMatch (params rct) (withAlphabet [0x61] 1) c → IsMatch (params rct) (withAlphabet [0x61] 1) c' → c = c' := by
  have one : ∀ c, IsMatch (params rct) (withAlphabet [0x61] 1) c → c = [0x61] := by
    rintro c ⟨⟨hl, hc⟩, -⟩
    obtain ⟨b, rfl⟩ := List.length_eq_one_iff.1 hl
    obtain ⟨n, hn, hb⟩ := hc b List.mem_cons_self
    obtain rfl : n = 0 := by have : n < 1 := hn; omega
    rw [hb]; decide
  exact ⟨by decide, fun c c' h h' => (one c h).trans (one c' h').symm⟩

theorem witness_SearchFindsTheDigestOfACandidate :
    ¬TupleParameterBad (params rct) matching ∧ IsCandidate (params rct) matching [0x62, 0x61] ∧
    (List.range 16).map (byteAt (params rct) matching .target) = hashOf (params rct).rc [0x62, 0x61] :=
  ⟨by decide, witness_IsCandidate, witness_EveryMatchIsSomeSchedulesResult.2.symm⟩

theorem witness_RegisterReadsByNumber : ∀ no, no ∈ [0, 1, 2, 3, 4, 5, 6, 7, 8, 9] →
    ∃ s rest, State.pending s = .getReg no :: rest := fun no _ => ⟨{ blank with pending := [.getReg no] }, [], rfl⟩

theorem witness_RegisterWritesByNumber : ∀ no, no ∈ [1, 4, 5, 6, 9] →
    no ≠ 0 ∧ ∃ s v rest, State.pending s = .setReg no v :: rest :=
  fun no h => ⟨by rintro rfl; simp at h, { blank with pending := [.setReg no 1] }, 1, [], rfl⟩

theorem witness_LaneAccessByNumber : (24 : Fin 25).val = 5 * (4 : Fin 5).val + (4 : Fin 5).val ∧
    (∃ s v rest, State.pending s = .setLane 24 v :: rest) ∧ (∃ s rest, State.pending s = .getLane 24 :: rest) :=
  ⟨by decide, ⟨{ blank with pending := [.setLane 24 1] }, 1, [], rfl⟩, ⟨{ blank with pending := [.getLane 24] }, [], rfl⟩⟩

/-- The last offset of every space, for a write and for a read. -/
theorem witness_ByteAccessBySpace : ∀ sp, ∃ a, a < capacity (params rct) sp ∧ capacity (params rct) sp ≤ a + 1 ∧
    (∃ s b rest, State.pending s = .setByte sp a b :: rest) ∧ (∃ s rest, State.pending s = .getByte sp a :: rest) := by
  intro sp
  refine ⟨capacity (params rct) sp - 1, ?_, ?_, ⟨⟨{ blank with pending := [.setByte sp _ 1] }, 1, [], rfl⟩,
    ⟨{ blank with pending := [.getByte sp _] }, [], rfl⟩⟩⟩ <;> cases sp <;> decide

/-- The first offset past every space, for a write and for a read. -/
theorem witness_StepStopsOnlyOutsideASpace : ∀ sp, ∃ s rest r,
    r = Fault.noSuchElement sp (capacity (params rct) sp) ∧ capacity (params rct) sp ≤ capacity (params rct) sp ∧
    State.pending s = .getByte sp (capacity (params rct) sp) :: rest :=
  fun sp => ⟨{ blank with pending := [.getByte sp (capacity (params rct) sp)] }, [], _, rfl, le_refl _, rfl⟩

theorem witness_ResetAtAnyTimeGivesTheResetState :
    (∃ s rest, State.pending s = .reset :: rest) ∧ (∃ s cw rest, State.pending s = .abort cw :: rest) :=
  ⟨⟨{ blank with pending := [.reset] }, [], rfl⟩, ⟨{ blank with pending := [.abort 0x3000] }, 0x3000, [], rfl⟩⟩

/-- ESTATE moves on an E.INIT at a tuple; SSTATE and DVALID move on SEARCH and HASH at reset; FAULT on an illegal word. -/
theorem witness_StatusFieldsWrittenOnlyAsListed :
    (∃ s t, step s = .next t ∧ nextIsReset s = false ∧ t.estate ≠ s.estate) ∧
    (∃ s t, step s = .next t ∧ nextIsReset s = false ∧ t.fault ≠ s.fault) :=
  ⟨⟨{ standingAt [0x61] [0] with pending := [.setReg 0 0x2000] }, _, rfl, rfl, by decide⟩,
   ⟨{ blank with pending := [.setReg 0 0xFFFF] }, _, rfl, rfl, by decide⟩⟩

theorem witness_dvalid_moves : ∃ s t, step s = .next t ∧ nextIsReset s = false ∧ t.dvalid ≠ s.dvalid := by
  refine ⟨State.reset.withFetchWord 16 0x1000, hashCommand Config.hw State.reset, rfl, rfl, ?_⟩
  rw [hashCommand_fits (by simp [MessageTooLong, messageLength, State.reset, State.resetWith])]
  decide

theorem witness_sstate_moves : ∃ s t, step s = .next t ∧ nextIsReset s = false ∧ t.sstate ≠ s.sstate := by
  refine ⟨State.reset.withFetchWord 16 0x3000, searchCommand Config.hw State.reset, rfl, rfl, ?_⟩
  rw [searchCommand_good witness_NextTouchesOnlyTheTuple.2]
  cases (searchRun Config.hw State.reset.draws State.reset).slot <;>
    simp [finishSearch, raise, State.reset, State.resetWith, State.withFetchWord]

theorem witness_ExceptionRegistersPersist :
    ∃ s t, step s = .next t ∧ nextIsReset s = false ∧ s.fault = true ∧ s.cause ≠ none ∧ t.xinfo ≠ s.xinfo :=
  ⟨{ blank with pending := [.setReg 0 0xFFFF], fault := true, cause := some .badParameter }, _, rfl, rfl, rfl, by decide,
    by decide⟩

theorem witness_LanesChangeOnlyAsListed :
    (∃ s t, step s = .next t ∧ t.lanes ≠ s.lanes ∧ nextCommand s = some 0x0100) ∧
    (∃ s t, step s = .next t ∧ t.lanes ≠ s.lanes ∧ nextSetsLane s = true) ∧
    (∃ s t, step s = .next t ∧ t.lanes ≠ s.lanes ∧ nextIsReset s = true) :=
  ⟨⟨{ blank with lanes := ramp, pending := [.setReg 0 0x0100] }, _, rfl, by decide, by decide⟩,
   ⟨{ blank with pending := [.setLane 0 1] }, _, rfl, by decide, rfl⟩,
   ⟨{ blank with lanes := ramp, pending := [.reset] }, _, rfl, by decide, rfl⟩⟩

theorem witness_ExceptionsDisableNothing : ∃ t, exec .theta State.reset = .next t := ⟨_, rfl⟩

theorem witness_EveryStepKeepsTheInvariant :
    ∃ t, step (State.reset.withFetchWord 16 0x0200) = .next t ∧ Inv Config.hw (State.reset.withFetchWord 16 0x0200) := by
  refine ⟨_, rfl, fun sp => ⟨?_, ?_⟩, (nomatch ·), ⟨(nomatch ·), fun _ => rfl⟩, rfl, rfl, rfl, by decide⟩
  · cases sp <;> exact List.Pairwise.nil
  · intro c hc; cases sp <;> cases hc

theorem witness_DrawNumbersAreNeverReused :
    DrawsFresh (State.reset.withFetchWord 16 0x2000) ∧ ∃ t, step (State.reset.withFetchWord 16 0x2000) = .next t :=
  ⟨⟨by decide, by decide⟩, _, rfl⟩

theorem witness_PseudoInstructionsExpand :
    (List.replicate 16 (0 : Byte)).length = 16 ∧ (List.replicate 25 (0 : Word)).length = 25 := by decide

end Sys2Proof.Tests
end

/-! Scope (spec/00_scope.md): a step runs the decoded command (R10), and the rotation and the NOT of R12 as the stages of
the permutation use them. -/

namespace Sys2Proof.Machine

/-! ### What the commands on the lanes keep -/

@[simp] theorem spaceOf_onLanes (f : StateMatrix → StateMatrix) (s : State) (sp : Space) :
    spaceOf (onLanes f s) sp = spaceOf s sp := by
  cases sp <;> rfl

/-- A stage applied to the lanes of H0 changes nothing else (R66). -/
theorem keepsAllButLanes_onLanes (f : StateMatrix → StateMatrix) (s : State) : KeepsAllButLanes s (onLanes f s) := by
  have bytes : KeepsBytes (fun _ => true) s (onLanes f s) := fun p sp a _ => by rw [byteAt, spaceOf_onLanes, byteAt]
  exact ⟨⟨rfl, rfl, rfl, rfl⟩, ⟨rfl, rfl⟩, ⟨rfl, rfl, rfl⟩, ⟨rfl, rfl⟩, ⟨rfl, rfl⟩, bytes⟩

/-! ### The spec's arithmetic forms -/

/-- Addition of lane indices is addition modulo 5 (R110). -/
theorem mod5_val_add (i k : Fin 5) : mod5 (i.val + k.val) = i + k := rfl

/-- NOT as R12 writes it. -/
theorem ofNat_sub_toNat (w : Word) : BitVec.ofNat 16 (0xFFFF - w.toNat) = ~~~w := by
  apply BitVec.eq_of_toNat_eq
  rw [BitVec.toNat_not, BitVec.toNat_ofNat]
  exact Nat.mod_eq_of_lt (by omega)

/-- The low part of a rotation is a multiple of `2 ^ n` and the part that wraps round is below `2 ^ n`, so the OR of the
two is their sum (R12). -/
theorem rotl16_toNat (v : Word) {n : Nat} (hn : n < 16) : (rotl16 v n).toNat = rotlArith v n := by
  have low : v.toNat <<< n % 65536 = (v.toNat % 2 ^ (16 - n)) <<< n := by
    rw [Nat.shiftLeft_eq, Nat.shiftLeft_eq, ← Nat.mul_mod_mul_right, ← Nat.pow_add, Nat.sub_add_cancel hn.le]
  have wrapped : v.toNat >>> (16 - n) < 2 ^ n := by
    rw [Nat.shiftRight_eq_div_pow]
    apply Nat.div_lt_of_lt_mul
    rw [← Nat.pow_add, Nat.sub_add_cancel hn.le]
    exact v.isLt
  have sum : (rotl16 v n).toNat = v.toNat * 2 ^ n % 65536 + v.toNat / 2 ^ (16 - n) := by
    rw [rotl16, BitVec.toNat_rotateLeft, Nat.mod_eq_of_lt hn, low, ← Nat.shiftLeft_add_eq_or_of_lt wrapped, ← low,
      Nat.shiftLeft_eq, Nat.shiftRight_eq_div_pow]
  rw [sum, rotlArith]
  split_ifs with h0
  · subst h0
    omega
  · rfl

/-- Bit `k` moves to bit `(k + n) mod 16` (R12, R111). -/
theorem getLsbD_rotl16 (v : Word) {n k : Nat} (hn : n < 16) (hk : k < 16) :
    (rotl16 v n).getLsbD ((k + n) % 16) = v.getLsbD k := by
  rw [rotl16, BitVec.getLsbD_rotateLeft, Nat.mod_eq_of_lt hn]
  rcases Nat.lt_or_ge (k + n) 16 with stays | wraps
  · rw [Nat.mod_eq_of_lt stays]
    simp [stays]
  · rw [Nat.mod_eq_sub_mod wraps, Nat.mod_eq_of_lt (by omega)]
    have below : k + n - 16 < n := by omega
    have source : 16 - n + (k + n - 16) = k := by omega
    rw [source, decide_eq_true below, cond_true]

/-- Settles O7: the two parts of a rotation do not overlap, so their OR is the sum R12 writes, and a bit either stays below
bit 16 or wraps round. -/
theorem rotationIsTheArithmeticOne : Obligations.RotationIsTheArithmeticOne :=
  fun v _ hn => ⟨rotl16_toNat v hn, fun _ hk => getLsbD_rotl16 v hn hk⟩

/-! ### CHI -/

theorem exec_chi (s : State) : exec .chi s = .next (onLanes chiStage s) := rfl

/-- Settles O12: `chiStage` reads every lane from the snapshot, with NOT in its arithmetic form and the row index modulo 5. -/
theorem chiMixesEachLane : Obligations.ChiMixesEachLane := by
  refine ⟨by decide, fun s => ⟨_, exec_chi s, fun i j => ?_, keepsAllButLanes_onLanes chiStage s⟩⟩
  have oneOn : mod5 (i.val + 1) = i + 1 := mod5_val_add i 1
  have twoOn : mod5 (i.val + 2) = i + 2 := mod5_val_add i 2
  rw [onLanes_lanes, lane_chiStage, ofNat_sub_toNat, oneOn, twoOn]

/-! ### A write to CMD -/

/-- Settles O5: the action goes to the register write, register 0 to the decoder, and a legal word to `exec`. -/
theorem stepRunsTheDecodedCommand : Obligations.StepRunsTheDecodedCommand := by
  refine ⟨fun s v rest i hp hd => ?_, fun s hp => takeAction_idle hp⟩
  calc step s = writeRegister v { s with pending := rest } 0 := takeAction_cons hp
    _ = issueCommand (v.setWidth 16) { s with pending := rest } := writeRegister_command v _
    _ = exec i { s with pending := rest } := issueCommand_legal hd _

end Sys2Proof.Machine

/-! State (spec/10_state.md): the effects of a command and of a host action, the invariant of the machine, and the rules
about registers, lanes, byte spaces and draw numbers. -/

namespace Sys2Proof.Machine

open Sys2Proof.Config

/-! ### The word of a decoded command (R90 to R95) -/

theorem opField_append_argField (w : Word) : opField w ++ argField w = w :=
  (BitVec.extractLsb'_append_extractLsb'_eq_extractLsb' rfl).trans BitVec.extractLsb'_eq_self

/-- `arg` is the two fields that Format R reads (R92). -/
theorem upperArgField_append_roundField (w : Word) : upperArgField w ++ roundField w = argField w :=
  BitVec.extractLsb'_append_extractLsb'_eq_extractLsb' rfl

theorem decodeFormatN_ok {w : Word} {i j : Instr} (h : decodeFormatN w j = .ok i) : argField w = 0 ∧ i = j := by
  unfold decodeFormatN at h
  split_ifs at h with harg
  cases h
  exact ⟨harg, rfl⟩

theorem decodeFormatR_ok {w : Word} {i : Instr} {mk : BitVec 4 → Instr} (h : decodeFormatR w mk = .ok i) :
    argField w = 0#4 ++ roundField w ∧ roundIndexLegal (roundField w) = true ∧ i = mk (roundField w) := by
  unfold decodeFormatR at h
  split_ifs at h with hupper hround
  cases h
  rw [← upperArgField_append_roundField, not_not.1 hupper]
  exact ⟨rfl, hround, rfl⟩

/-- Opcode, argument and well-formedness of what a legal word decodes to. -/
theorem decode_ok_fields {w : Word} {i : Instr} (h : decode w = .ok i) :
    opField w = opcodeOf i ∧ argField w = argumentOf i ∧ wellFormed i = true := by
  unfold decode at h
  split at h
  case h_6 hop | h_7 hop =>
    obtain ⟨harg, hround, rfl⟩ := decodeFormatR_ok h
    exact ⟨hop, harg, hround⟩
  case h_13 => cases h
  all_goals
    rename_i hop
    obtain ⟨harg, rfl⟩ := decodeFormatN_ok h
    exact ⟨hop, harg, rfl⟩

/-- A legal word is the command word of what it decodes to. -/
theorem eq_encode_of_decode {w : Word} {i : Instr} (h : decode w = .ok i) : w = encode i := by
  obtain ⟨hop, harg, -⟩ := decode_ok_fields h
  rw [encode, ← hop, ← harg, opField_append_argField]

theorem wellFormed_of_decode {w : Word} {i : Instr} (h : decode w = .ok i) : wellFormed i = true :=
  (decode_ok_fields h).2.2

/-! ### What a command does (R24, R94) -/

/-- The commands of spec/40_permutation.md, with a legal index where they have one. -/
def isStage : Instr → Bool
  | .iota r | .round r => roundIndexLegal r
  | .stClr | .theta | .rho | .pi | .chi | .permute => true
  | .hash | .eInit | .eNext | .search => false

/-- Each way in which a well-formed command changes the state `s`. -/
inductive CommandEffect (p : Params) (s : State) : Instr → State → Prop
  | stage {i : Instr} (f : StateMatrix → StateMatrix) (hi : isStage i = true) : CommandEffect p s i (onLanes f s)
  | badParameter {i : Instr}
      (hbad : i = .hash ∧ MessageTooLong p s ∨ (i = .eNext ∨ i = .search) ∧ TupleParameterBad p s) :
      CommandEffect p s i (raise .badParameter (encode i) s)
  | hash (fits : ¬MessageTooLong p s) : CommandEffect p s .hash (hashCommand p s)
  | restart : CommandEffect p s .eInit (restartEnumerator s)
  | emitFirst (good : ¬TupleParameterBad p s) (he : s.estate = .notStarted) (hN : alphabetSize s ≠ 0) :
      CommandEffect p s .eNext (emit p (List.replicate (tupleLength s) 0) s)
  | emitNext (good : ¬TupleParameterBad p s) (he : s.estate = .atTuple) {t : List Nat}
      (ht : advance (alphabetSize s) (currentTuple p s) = some t) : CommandEffect p s .eNext (emit p t s)
  | exhaust (good : ¬TupleParameterBad p s)
      (hend : s.estate = .notStarted ∧ alphabetSize s = 0 ∨
        s.estate = .atTuple ∧ advance (alphabetSize s) (currentTuple p s) = none) :
      CommandEffect p s .eNext (exhaustTuples s)
  | stayExhausted (good : ¬TupleParameterBad p s) (he : s.estate = .exhausted) : CommandEffect p s .eNext s
  | search (good : ¬TupleParameterBad p s) :
      CommandEffect p s .search (finishSearch p (searchRun p s.draws s).slot s)

theorem onRound_legal {i : Instr} {r : BitVec 4} (hr : roundIndexLegal r = true)
    (f : Fin 10 → StateMatrix → StateMatrix) (s : State) : ∃ g, onRound i r f s = onLanes g s := by
  rw [onRound, roundIndex_legal (of_decide_eq_true hr)]
  exact ⟨_, rfl⟩

/-- A command of the permutation is a function of the lanes. -/
theorem exec_stage {i : Instr} (hi : isStage i = true) (s : State) : ∃ f, exec i s = .next (onLanes f s) := by
  cases i with
  | iota r | round r =>
    obtain ⟨g, hg⟩ := onRound_legal hi _ s
    exact ⟨g, congrArg _ hg⟩
  | stClr | theta | rho | pi | chi | permute => exact ⟨_, rfl⟩
  | hash | eInit | eNext | search => cases hi

theorem hashCommand_effect (p : Params) (s : State) : CommandEffect p s .hash (hashCommand p s) := by
  by_cases h : MessageTooLong p s
  · rw [hashCommand_tooLong h]
    exact .badParameter (.inl ⟨rfl, h⟩)
  · exact .hash h

theorem nextTuple_effect (p : Params) (s : State) : CommandEffect p s .eNext (nextTuple p s) := by
  by_cases hbad : TupleParameterBad p s
  · rw [nextTuple_bad hbad]
    exact .badParameter (.inr ⟨.inl rfl, hbad⟩)
  · cases he : s.estate with
    | notStarted =>
      by_cases hN : alphabetSize s = 0
      · rw [nextTuple_empty hbad he hN]
        exact .exhaust hbad (.inl ⟨he, hN⟩)
      · rw [nextTuple_first hbad he hN]
        exact .emitFirst hbad he hN
    | atTuple =>
      cases ht : advance (alphabetSize s) (currentTuple p s) with
      | none =>
        rw [nextTuple_last hbad he ht]
        exact .exhaust hbad (.inr ⟨he, ht⟩)
      | some t =>
        rw [nextTuple_advance hbad he ht]
        exact .emitNext hbad he ht
    | exhausted =>
      rw [nextTuple_exhausted hbad he]
      exact .stayExhausted hbad he

theorem searchCommand_effect (p : Params) (s : State) : CommandEffect p s .search (searchCommand p s) := by
  by_cases h : TupleParameterBad p s
  · rw [searchCommand_bad h]
    exact .badParameter (.inr ⟨.inr rfl, h⟩)
  · rw [searchCommand_good h]
    exact .search h

/-- What a well-formed command can do. -/
theorem exec_effect {i : Instr} {s t : State} (hi : wellFormed i = true) (h : exec i s = .next t) :
    CommandEffect Config.hw s i t := by
  by_cases hstage : isStage i = true
  · obtain ⟨f, hf⟩ := exec_stage hstage s
    rw [hf] at h
    cases h
    exact .stage f hstage
  · cases i with
    | stClr | theta | rho | pi | chi | permute => exact absurd rfl hstage
    | iota r | round r => exact absurd hi hstage
    | hash => cases h; exact hashCommand_effect Config.hw s
    | eInit => cases h; exact .restart
    | eNext => cases h; exact nextTuple_effect Config.hw s
    | search => cases h; exact searchCommand_effect Config.hw s

/-! ### What a host action does (R27, R35 to R42, R250) -/

/-- Each way in which an action of the host that completes changes the state `s`. -/
inductive ActionEffect (p : Params) (s : State) : HostAction → State → Prop
  | getReg (no : Nat) : ActionEffect p s (.getReg no) (receive (readRegister s no) s)
  | getLane (k : Fin 25) :
      ActionEffect p s (.getLane k) (receive ((lane s.lanes (laneRow k) (laneColumn k)).setWidth 64) s)
  | getByte {sp : Space} {o : Nat} (ho : o < capacity p sp) :
      ActionEffect p s (.getByte sp o) (receive ((readByte p (spaceOf s sp) o).setWidth 64) s)
  | command {v : BitVec 64} {i : Instr} {t : State} (hd : decode (v.setWidth 16) = .ok i)
      (effect : CommandEffect p s i t) : ActionEffect p s (.setReg 0 v) t
  | illegal {v : BitVec 64} {e : DecodeError} (hd : decode (v.setWidth 16) = .error e) :
      ActionEffect p s (.setReg 0 v) (raise .illegalCommand (v.setWidth 16) s)
  | setMsgLen (v : BitVec 64) : ActionEffect p s (.setReg 4 v) { s with msgLen := v.setWidth 32 }
  | setAlphaN (v : BitVec 64) :
      ActionEffect p s (.setReg 5 v) (restartEnumerator { s with alphaN := v.setWidth 16 })
  | setTupleL (v : BitVec 64) :
      ActionEffect p s (.setReg 6 v) (restartEnumerator { s with tupleL := v.setWidth 16 })
  | ignored {no : Nat} (hno : no ≠ 0 ∧ no ≠ 4 ∧ no ≠ 5 ∧ no ≠ 6) (v : BitVec 64) :
      ActionEffect p s (.setReg no v) s
  | setLane (k : Fin 25) (v : Word) :
      ActionEffect p s (.setLane k v) (onLanes (fun A => setLane A (laneRow k) (laneColumn k) v) s)
  | setByte {sp : Space} {o : Nat} (ho : o < capacity p sp) (b : Byte) :
      ActionEffect p s (.setByte sp o b) (writeSpace sp o b s)
  | reset {a : HostAction} (ha : a = .reset ∨ ∃ cw, a = .abort cw) : ActionEffect p s a (hostReset p s)

theorem writeRegister_effect {no : Nat} {v : BitVec 64} {s t : State} (h : writeRegister v s no = .next t) :
    ActionEffect Config.hw s (.setReg no v) t := by
  obtain ⟨rfl, i, hd, hexec⟩ | ⟨rfl, ⟨e, hd⟩, rfl⟩ | ⟨rfl, rfl⟩ | ⟨rfl, rfl⟩ | ⟨rfl, rfl⟩ |
    ⟨h0, h4, h5, h6, rfl⟩ := writeRegister_cases h
  · exact .command hd (exec_effect (wellFormed_of_decode hd) hexec)
  · exact .illegal hd
  · exact .setMsgLen v
  · exact .setAlphaN v
  · exact .setTupleL v
  · exact .ignored ⟨h0, h4, h5, h6⟩ v

theorem hostAction_effect {a : HostAction} {s t : State} (h : hostAction Config.hw a s = .next t) :
    ActionEffect Config.hw s a t := by
  obtain ⟨no, v, rfl, hw⟩ | ⟨no, rfl, rfl⟩ | ⟨k, v, rfl, rfl⟩ | ⟨k, rfl, rfl⟩ | ⟨sp, o, b, rfl, ho, rfl⟩ |
    ⟨sp, o, rfl, ho, rfl⟩ | ⟨ha, rfl⟩ := hostAction_cases h
  · exact writeRegister_effect hw
  · exact .getReg no
  · exact .setLane k v
  · exact .getLane k
  · exact .setByte ho b
  · exact .getByte ho
  · exact .reset ha

/-- A step with a next state idles, or has the effect of the host's next action. -/
theorem step_effect {s t : State} (h : step s = .next t) :
    t = s ∨ ∃ a rest, s.pending = a :: rest ∧ ActionEffect Config.hw { s with pending := rest } a t := by
  obtain ⟨-, rfl⟩ | ⟨a, rest, hp, ha⟩ := step_cases h
  · exact .inl rfl
  · exact .inr ⟨a, rest, hp, hostAction_effect ha⟩

/-! ### Canonical form and capacity of a space (R35 to R41) -/

/-- A space is in canonical form and stores nothing at or past offset `n`. -/
def Memory.Fits (m : Memory) (n : Nat) : Prop := m.wf ∧ ∀ c ∈ m.cells, c.1 < n

theorem unspecified_fits (seed n : Nat) : (Memory.unspecified seed).Fits n :=
  ⟨unspecified_wf seed, fun _ hc => nomatch hc⟩

theorem writeBytes_fits {m : Memory} {n a : Nat} {bs : List Byte} (h : m.Fits n) (ha : a + bs.length ≤ n) :
    (writeBytes m a bs).Fits n := by
  refine ⟨writeBytes_wf h.1 a bs, fun c hc => ?_⟩
  rcases mem_writeBytes hc with hold | ⟨-, hnew⟩
  · exact h.2 c hold
  · omega

theorem writeByte_fits {m : Memory} {n a : Nat} (h : m.Fits n) (ha : a < n) (b : Byte) : (writeByte m a b).Fits n :=
  writeBytes_fits (bs := [b]) h ha

theorem spacesWf_iff {p : Params} {s : State} : SpacesWf p s ↔ ∀ sp, (spaceOf s sp).Fits (capacity p sp) := Iff.rfl

/-! ### The spaces after each shared update -/

theorem spaceOf_forgetTuple (s : State) (sp : Space) :
    spaceOf (forgetTuple s) sp =
      if sp = .idx then Memory.unspecified s.draws
      else if sp = .cand then Memory.unspecified (s.draws + 1) else spaceOf s sp := by
  cases sp <;> rfl

/-- What the host may write (R35 to R41, log entry 12). -/
abbrev HostWritable (sp : Space) : Prop := sp = .msg ∨ sp = .alpha ∨ sp = .target

theorem spaceOf_writeSpace (sp : Space) (a : Nat) (b : Byte) (s : State) (sp' : Space) :
    spaceOf (writeSpace sp a b s) sp' =
      if sp' = sp ∧ HostWritable sp then writeByte (spaceOf s sp') a b else spaceOf s sp' := by
  cases sp <;> cases sp' <;> rfl

@[simp] theorem hashOf_length (rc : Fin 10 → Word) (x : List Byte) : (hashOf rc x).length = 16 :=
  hashOn_digest_length rc _ x

/-- HASH writes the hash of the message to DIGEST and keeps the other spaces (R66). -/
theorem spaceOf_hashCommand {p : Params} {s : State} (fits : ¬MessageTooLong p s) (sp : Space) :
    spaceOf (hashCommand p s) sp =
      if sp = .digest then writeBytes s.digest 0 (hashOf p.rc (message p s)) else spaceOf s sp := by
  rw [hashCommand_fits fits]
  cases sp <;> rfl

theorem spaceOf_emit (p : Params) (t : List Nat) (s : State) (sp : Space) :
    spaceOf (emit p t s) sp =
      if sp = .idx then writeBytes (Memory.unspecified s.draws) 0 (t.map (BitVec.ofNat 8))
      else if sp = .cand then writeBytes (Memory.unspecified (s.draws + 1)) 0 (candidateOf (symbol p s) t)
      else spaceOf s sp := by
  cases sp <;> rfl

theorem spaceOf_finishSearch (p : Params) (slot : Option (List Byte)) (s : State) (sp : Space) :
    spaceOf (finishSearch p slot s) sp =
      if sp = .result then writeBytes (Memory.unspecified s.draws) 0 (slot.getD []) else spaceOf s sp := by
  cases slot <;> cases sp <;> rfl

/-! ### The five parts of the invariant, operation by operation -/

theorem spacesWf_forgetTuple {p : Params} {s : State} (h : SpacesWf p s) : SpacesWf p (forgetTuple s) := by
  refine spacesWf_iff.2 fun sp => ?_
  rw [spaceOf_forgetTuple]
  split_ifs
  · exact unspecified_fits _ _
  · exact unspecified_fits _ _
  · exact h sp

theorem spacesWf_emit {p : Params} {s : State} (h : SpacesWf p s) {t : List Nat} (ht : t.length ≤ p.lMax) :
    SpacesWf p (emit p t s) := by
  refine spacesWf_iff.2 fun sp => ?_
  rw [spaceOf_emit]
  split_ifs with hidx hcand
  · subst hidx
    exact writeBytes_fits (unspecified_fits _ _) (by simpa [capacity] using ht)
  · subst hcand
    exact writeBytes_fits (unspecified_fits _ _) (by simpa [capacity, candidateOf] using ht)
  · exact h sp

theorem spacesWf_hashCommand {p : Params} {s : State} (h : SpacesWf p s) (fits : ¬MessageTooLong p s) :
    SpacesWf p (hashCommand p s) := by
  refine spacesWf_iff.2 fun sp => ?_
  rw [spaceOf_hashCommand fits]
  split_ifs with hdigest
  · subst hdigest
    exact writeBytes_fits (h .digest) (by simp [capacity])
  · exact h sp

theorem spacesWf_finishSearch {p : Params} {s : State} (h : SpacesWf p s) {slot : Option (List Byte)}
    (hslot : ∀ c ∈ slot, c.length ≤ p.lMax) : SpacesWf p (finishSearch p slot s) := by
  refine spacesWf_iff.2 fun sp => ?_
  rw [spaceOf_finishSearch]
  split_ifs with hresult
  · subst hresult
    cases slot with
    | none => exact unspecified_fits _ _
    | some c => exact writeBytes_fits (unspecified_fits _ _) (by simpa [capacity] using hslot c rfl)
  · exact h sp

theorem spacesWf_writeSpace {p : Params} {s : State} (h : SpacesWf p s) {sp : Space} {o : Nat} (ho : o < capacity p sp)
    (b : Byte) : SpacesWf p (writeSpace sp o b s) := by
  refine spacesWf_iff.2 fun sp' => ?_
  rw [spaceOf_writeSpace]
  split_ifs with hsp
  · obtain ⟨rfl, -⟩ := hsp
    exact writeByte_fits (h _) ho b
  · exact h sp'

/-- Where the enumerator does not stand at a tuple, nothing is asked of IDX and CAND (R39). -/
theorem tupleHeld_of_ne {p : Params} {s : State} (h : s.estate ≠ .atTuple) : TupleHeld p s := fun hat => absurd hat h

/-- An emitted tuple of the alphabet fits a byte per slot, because N is at most 256 (R171). -/
theorem tupleHeld_emit {p : Params} {s : State} (good : ¬TupleParameterBad p s) {t : List Nat}
    (hlen : t.length = tupleLength s) (hlt : ∀ d ∈ t, d < alphabetSize s) : TupleHeld p (emit p t s) := by
  refine fun _ => ⟨good, fun k hk => ?_⟩
  have hkt : k < t.length := hlen ▸ hk
  have hd : t[k] < alphabetSize s := hlt _ (List.getElem_mem hkt)
  have hN : alphabetSize s ≤ 256 := not_lt.1 fun hbig => good (.inl hbig)
  refine ⟨⟨BitVec.ofNat 8 t[k], ?_, ?_⟩, ?_⟩
  · rw [emit_idx, lookupCell_writeBytes]
    simp [hkt]
  · have : t[k] % 2 ^ 8 = t[k] := Nat.mod_eq_of_lt (by omega)
    rw [BitVec.toNat_ofNat, this]
    exact hd
  · rw [emit_cand, lookupCell_writeBytes]
    simp [hkt, candidateOf]

/-- At a tuple, every slot of IDX stands below N (R39). -/
theorem TupleHeld.currentTuple_lt {p : Params} {s : State} (h : TupleHeld p s) (he : s.estate = .atTuple) :
    ∀ d ∈ currentTuple p s, d < alphabetSize s := by
  intro d hd
  simp only [currentTuple, readBytes, List.mem_map, List.mem_range] at hd
  obtain ⟨-, ⟨k, hk, rfl⟩, rfl⟩ := hd
  obtain ⟨⟨b, hb, hlt⟩, -⟩ := (h he).2 k hk
  rwa [readByte, hb]

@[simp] theorem currentTuple_length (p : Params) (s : State) : (currentTuple p s).length = tupleLength s := by
  simp [currentTuple]

theorem tupleHeld_advance {p : Params} {s : State} (h : TupleHeld p s) (he : s.estate = .atTuple) {t : List Nat}
    (ht : advance (alphabetSize s) (currentTuple p s) = some t) : TupleHeld p (emit p t s) := by
  obtain ⟨good, hslots⟩ := h he
  have hL : 0 < tupleLength s := Nat.pos_of_ne_zero fun h0 => good (.inr (.inl h0))
  obtain ⟨⟨b, -, hb⟩, -⟩ := hslots 0 hL
  exact tupleHeld_emit good ((advance_length ht).trans (currentTuple_length p s))
    (advance_lt (by omega) (h.currentTuple_lt he) ht)

theorem digestHeld_hashCommand {p : Params} {s : State} (fits : ¬MessageTooLong p s) : DigestHeld (hashCommand p s) := by
  have hd : (hashCommand p s).digest = writeBytes s.digest 0 (hashOf p.rc (message p s)) := spaceOf_hashCommand fits .digest
  have hv : (hashCommand p s).dvalid = true := by rw [hashCommand_fits fits]
  rw [DigestHeld, hv, if_pos rfl]
  intro k hk
  rw [hd, lookupCell_writeBytes]
  simp [hk]

/-- Found: RESULT holds the candidate, whose length is TUPLE_L (R33, R41). -/
theorem resultHeld_finishSearch {p : Params} {s : State} (good : ¬TupleParameterBad p s) {slot : Option (List Byte)}
    (hslot : ∀ c ∈ slot, c.length = tupleLength s) : ResultHeld p (finishSearch p slot s) := by
  obtain ⟨-, hpos, hmax⟩ : ¬256 < alphabetSize s ∧ ¬tupleLength s = 0 ∧ ¬p.lMax < tupleLength s := by
    simpa only [not_or] using good
  cases slot with
  | none => exact ⟨(nomatch ·), fun _ => rfl⟩
  | some c =>
    refine ⟨fun _ => ⟨Nat.pos_of_ne_zero hpos, not_lt.1 hmax, fun k hk => ?_⟩, fun hne => absurd rfl hne⟩
    have hk' : k < c.length := hslot c rfl ▸ hk
    change (lookupCell (writeBytes (Memory.unspecified s.draws) 0 c).cells k).isSome = true
    rw [lookupCell_writeBytes]
    simp [hk']

/-- CAUSE, XINFO and FAULT being the same, they agree still, unless the search state has become NotFound. -/
theorem ExceptionHeld.congr {s t : State} (h : ExceptionHeld s) (hc : t.cause = s.cause) (hx : t.xinfo = s.xinfo)
    (hf : t.fault = s.fault) (hs : t.sstate ≠ .notFound) : ExceptionHeld t := by
  unfold ExceptionHeld at h ⊢
  rw [hc, hx, hf]
  cases hcause : s.cause with
  | none =>
    rw [hcause] at h
    exact ⟨h.1, h.2.1, hs⟩
  | some x =>
    rw [hcause] at h
    cases x <;> exact h

theorem exceptionHeld_illegal {cw : Word} {e : DecodeError} (hd : decode cw = .error e) (s : State) :
    ExceptionHeld (raise .illegalCommand cw s) :=
  ⟨Bool.or_true _, fun _ hi => nomatch hd.symm.trans hi⟩

theorem exceptionHeld_badParameter {i : Instr} (hi : i = .hash ∨ i = .eNext ∨ i = .search) (s : State) :
    ExceptionHeld (raise .badParameter (encode i) s) := by
  refine ⟨Bool.or_true _, ?_⟩
  rcases hi with rfl | rfl | rfl
  · exact .inl rfl
  · exact .inr (.inl rfl)
  · exact .inr (.inr rfl)

theorem exceptionHeld_finishSearch {s : State} (h : ExceptionHeld s) (p : Params) (slot : Option (List Byte)) :
    ExceptionHeld (finishSearch p slot s) := by
  cases slot with
  | none => exact rfl
  | some c => exact h.congr rfl rfl rfl (nomatch ·)

/-! ### The candidate of a search has L bytes (R175, R196) -/

/-- Every tuple in a worker's hands has L slots, and the slot of the result L bytes. -/
def CandidatesSized (e : SearchInput) (ws : Workers) : Prop :=
  (∀ c ∈ ws.slot, c.length = e.length) ∧ ∀ u ∈ ws.units, ∀ t ∈ u.cur, t.length = e.length

theorem mem_modify {α : Type} {f : α → α} {n : Nat} {l : List α} {x : α} (h : x ∈ l.modify n f) :
    x ∈ l ∨ ∃ y ∈ l, x = f y := by
  obtain ⟨k, hk⟩ := List.mem_iff_getElem?.1 h
  rw [List.getElem?_modify] at hk
  obtain ⟨y, hy, rfl⟩ := Option.map_eq_some_iff.1 hk
  have hmem := List.mem_of_getElem? hy
  split_ifs
  · exact .inr ⟨y, hmem, rfl⟩
  · exact .inl hmem

/-- A worker that takes no tuple, or one of L slots, leaves the others as they are. -/
theorem onWorker_sized {e : SearchInput} {ws : Workers} {w : Nat} {f : Worker → Worker}
    (h : ∀ u ∈ ws.units, ∀ t ∈ u.cur, t.length = e.length)
    (hf : ∀ u ∈ ws.units, ∀ t ∈ (f u).cur, t.length = e.length) :
    ∀ u ∈ (onWorker w f ws).units, ∀ t ∈ u.cur, t.length = e.length := by
  intro u hu
  rcases mem_modify hu with hold | ⟨v, hv, rfl⟩
  · exact h u hold
  · exact hf v hv

theorem startWorkers_sized (p : Params) (n : Nat) (e : SearchInput) : CandidatesSized e (startWorkers p n) := by
  refine ⟨fun _ hc => (nomatch hc), fun u hu t ht => ?_⟩
  obtain ⟨w, -, rfl⟩ := List.mem_map.1 hu
  cases ht

/-- The slot after eval(w): a match writes the candidate of the worker's tuple, if the slot is absent (R196). -/
theorem evalStep_slot (e : SearchInput) (w : Nat) (u : Worker) (t : List Nat) (ws : Workers) :
    (evalStep e w u t ws).slot =
      if hashOf e.rc (candidateOf e.sym t) = e.target then some (ws.slot.getD (candidateOf e.sym t)) else ws.slot :=
  apply_ite Workers.slot _ _ _

/-- The workers after eval(w): in every case worker `w` has no tuple (R196). -/
theorem evalStep_units (e : SearchInput) (w : Nat) (u : Worker) (t : List Nat) (ws : Workers) :
    (evalStep e w u t ws).units =
      ws.units.modify w fun v => { v with cur := none, lanes := (hashOn e.rc u.lanes (candidateOf e.sym t)).lanes } := by
  simp only [evalStep]
  split_ifs <;> rfl

theorem evalStep_sized {e : SearchInput} {ws : Workers} (h : CandidatesSized e ws) (w : Nat) (u : Worker) {t : List Nat}
    (ht : t.length = e.length) : CandidatesSized e (evalStep e w u t ws) := by
  obtain ⟨hslot, hunits⟩ := h
  refine ⟨fun c hc => ?_, ?_⟩
  · rw [evalStep_slot] at hc
    split_ifs at hc
    · obtain rfl := Option.some.inj hc
      cases hs : ws.slot with
      | none => simpa [candidateOf] using ht
      | some d => exact hslot d hs
    · exact hslot c hc
  · rw [evalStep_units]
    exact onWorker_sized hunits fun _ _ _ hc => (nomatch hc)

/-- Only a tuple of the space is handed out (R195). -/
theorem mem_allTuples_of_claim {e : SearchInput} {ws : Workers} {w : Nat} {t : List Nat}
    (h : stepEnabled e ws (.claim w t) = true) : t ∈ allTuples e.size e.length := by
  simp only [stepEnabled] at h
  split at h
  · simp only [Bool.and_eq_true, List.contains_iff_mem] at h
    exact h.1.2
  · cases h

theorem applyStep_sized {e : SearchInput} {ws : Workers} {st : WorkerStep} (h : CandidatesSized e ws)
    (hen : stepEnabled e ws st = true) : CandidatesSized e (applyStep e ws st) := by
  obtain ⟨hslot, hunits⟩ := h
  cases st with
  | claim w t =>
    refine ⟨hslot, onWorker_sized hunits fun _ _ u hu => ?_⟩
    obtain rfl := Option.some.inj hu
    exact (mem_allTuples.1 (mem_allTuples_of_claim hen)).1
  | eval w =>
    simp only [applyStep]
    split
    next u hu =>
      split
      next t ht => exact evalStep_sized ⟨hslot, hunits⟩ w u (hunits u (List.mem_of_getElem? hu) t ht)
      next => exact ⟨hslot, hunits⟩
    next => exact ⟨hslot, hunits⟩
  | drop w => exact ⟨hslot, onWorker_sized hunits fun _ _ _ hc => (nomatch hc)⟩
  | halt w => exact ⟨hslot, onWorker_sized hunits fun u hu => hunits u hu⟩

/-- What a search finds has L bytes. -/
theorem searchRun_slot_length (p : Params) (n : Nat) (s : State) :
    ∀ c ∈ (searchRun p n s).slot, c.length = tupleLength s :=
  (runWorkers_induction (CandidatesSized (searchInput p s)) (fun _ _ => applyStep_sized) _ _ _
    (startWorkers_sized p n _)).1

/-! ### The invariant of the machine -/

theorem inv_resetWith (p : Params) (n : Nat) : Inv p (State.resetWith p n) := by
  refine ⟨fun sp => ?_, tupleHeld_of_ne (nomatch ·), ⟨(nomatch ·), fun _ => rfl⟩, rfl, rfl, rfl, (nomatch ·)⟩
  cases sp <;> exact unspecified_fits _ _

/-- A command keeps the invariant, part by part: the stages touch none of it, HASH the digest's part, the enumerator the
tuple's, SEARCH the result's. -/
theorem CommandEffect.keeps_inv {p : Params} {s t : State} {i : Instr} (h : CommandEffect p s i t) (hinv : Inv p s) :
    Inv p t := by
  obtain ⟨hspaces, htuple, hresult, hdigest, hexc⟩ := hinv
  cases h with
  | stage f _ => exact ⟨hspaces, htuple, hresult, hdigest, hexc⟩
  | badParameter hbad =>
    have hi := hbad.imp And.left And.left
    exact ⟨hspaces, htuple, hresult, hdigest, exceptionHeld_badParameter hi s⟩
  | hash fits =>
    have hd := digestHeld_hashCommand fits
    have hs := spacesWf_hashCommand hspaces fits
    rw [hashCommand_fits fits] at hd hs ⊢
    exact ⟨hs, htuple, hresult, hd, hexc⟩
  | restart | exhaust => exact ⟨spacesWf_forgetTuple hspaces, tupleHeld_of_ne nofun, hresult, hdigest, hexc⟩
  | emitFirst good _ hN =>
    have hmax : tupleLength s ≤ p.lMax := not_lt.1 fun hbig => good (.inr (.inr hbig))
    have hspaces' := spacesWf_emit hspaces ((List.length_replicate (a := 0)).le.trans hmax)
    refine ⟨hspaces', tupleHeld_emit good List.length_replicate fun d hd => ?_, hresult, hdigest, hexc⟩
    rw [List.eq_of_mem_replicate hd]
    exact Nat.pos_of_ne_zero hN
  | emitNext good he ht =>
    have hmax : tupleLength s ≤ p.lMax := not_lt.1 fun hbig => good (.inr (.inr hbig))
    have hlen := (advance_length ht).trans (currentTuple_length p s)
    exact ⟨spacesWf_emit hspaces (hlen ▸ hmax), tupleHeld_advance htuple he ht, hresult, hdigest, hexc⟩
  | stayExhausted => exact ⟨hspaces, htuple, hresult, hdigest, hexc⟩
  | search good =>
    have hmax : tupleLength s ≤ p.lMax := not_lt.1 fun hbig => good (.inr (.inr hbig))
    have hslot := searchRun_slot_length p s.draws s
    have hs := spacesWf_finishSearch hspaces fun c hc => hslot c hc ▸ hmax
    have hr := resultHeld_finishSearch good hslot
    have hx := exceptionHeld_finishSearch hexc p (searchRun p s.draws s).slot
    generalize (searchRun p s.draws s).slot = slot at hs hr hx ⊢
    cases slot <;> exact ⟨hs, htuple, hr, hdigest, hx⟩

theorem ActionEffect.keeps_inv {p : Params} {s t : State} {a : HostAction} (h : ActionEffect p s a t) (hinv : Inv p s) :
    Inv p t := by
  cases h with
  | command _ effect => exact effect.keeps_inv hinv
  | reset _ => exact inv_resetWith p s.draws
  | getReg | getLane | getByte | ignored | setMsgLen | setLane => exact hinv
  | illegal hd =>
    obtain ⟨hspaces, htuple, hresult, hdigest, -⟩ := hinv
    exact ⟨hspaces, htuple, hresult, hdigest, exceptionHeld_illegal hd s⟩
  | setAlphaN | setTupleL =>
    obtain ⟨hspaces, -, hresult, hdigest, hexc⟩ := hinv
    exact ⟨spacesWf_forgetTuple hspaces, tupleHeld_of_ne nofun, hresult, hdigest, hexc⟩
  | @setByte sp _ ho b =>
    obtain ⟨hspaces, htuple, hresult, hdigest, hexc⟩ := hinv
    have hs := spacesWf_writeSpace hspaces ho b
    cases sp <;> exact ⟨hs, htuple, hresult, hdigest, hexc⟩

/-- Settles O55: the reset state is `State.resetWith` from draw number 0. -/
theorem resetMeetsTheInvariant : Obligations.ResetMeetsTheInvariant := inv_resetWith Config.hw 0

/-- Settles O56: each part of the invariant is kept by each effect a command or another host action can have. -/
theorem everyStepKeepsTheInvariant : Obligations.EveryStepKeepsTheInvariant := by
  intro s t hinv h
  obtain rfl | ⟨a, rest, -, effect⟩ := step_effect h
  · exact hinv
  · exact effect.keeps_inv hinv

/-! ### Who writes STATUS, CAUSE, XINFO and the lanes (R24, R28, R29) -/

/-- A field a command changes names the command, and what the command leaves in it. -/
theorem CommandEffect.writers {p : Params} {s t : State} {i : Instr} (h : CommandEffect p s i t) :
    (t.estate = s.estate ∨ i = .eInit ∨ i = .eNext) ∧
    (t.sstate = s.sstate ∨ i = .search ∧ t.sstate ≠ .none) ∧
    (t.dvalid = s.dvalid ∨ i = .hash ∧ t.dvalid = true) ∧
    (t.lanes = s.lanes ∨ isStage i = true ∨ i = .hash) ∧
    (t.fault = s.fault ∧ KeepsException s t ∨
      ∃ x, t.fault = (s.fault || setsFault x) ∧ t.cause = some x ∧ t.xinfo = encode i) := by
  cases h with
  | stage f hi => exact ⟨.inl rfl, .inl rfl, .inl rfl, .inr (.inl hi), .inl ⟨rfl, rfl, rfl⟩⟩
  | badParameter _ => exact ⟨.inl rfl, .inl rfl, .inl rfl, .inl rfl, .inr ⟨.badParameter, rfl, rfl, rfl⟩⟩
  | hash fits =>
    rw [hashCommand_fits fits]
    exact ⟨.inl rfl, .inl rfl, .inr ⟨rfl, rfl⟩, .inr (.inr rfl), .inl ⟨rfl, rfl, rfl⟩⟩
  | restart => exact ⟨.inr (.inl rfl), .inl rfl, .inl rfl, .inl rfl, .inl ⟨rfl, rfl, rfl⟩⟩
  | emitFirst | emitNext | exhaust | stayExhausted =>
    exact ⟨.inr (.inr rfl), .inl rfl, .inl rfl, .inl rfl, .inl ⟨rfl, rfl, rfl⟩⟩
  | search _ =>
    cases (searchRun p s.draws s).slot with
    | none => exact ⟨.inl rfl, .inr ⟨rfl, nofun⟩, .inl rfl, .inl rfl, .inr ⟨.searchExhausted, rfl, rfl, rfl⟩⟩
    | some c => exact ⟨.inl rfl, .inr ⟨rfl, nofun⟩, .inl rfl, .inl rfl, .inl ⟨rfl, rfl, rfl⟩⟩

/-- Over a step, the writers of STATUS (R28), CAUSE and XINFO (R29) and the lanes (R24). -/
structure WrittenAsListed (s t : State) : Prop where
  estate : t.estate = s.estate ∨ nextCommand s = some 0x2000 ∨ nextCommand s = some 0x2100 ∨
    ∃ v rest, s.pending = .setReg 5 v :: rest ∨ s.pending = .setReg 6 v :: rest
  sstate : t.sstate = s.sstate ∨ nextCommand s = some 0x3000 ∧ t.sstate ≠ .none
  dvalid : t.dvalid = s.dvalid ∨ nextCommand s = some 0x1000 ∧ t.dvalid = true
  lanes : t.lanes = s.lanes ∨ nextSetsLane s = true ∨ ∃ w ∈ laneWords, nextCommand s = some w
  exception : t.fault = s.fault ∧ KeepsException s t ∨
    ∃ x, t.fault = (s.fault || setsFault x) ∧ t.cause = some x ∧ nextCommand s = some t.xinfo

theorem writtenAsListed_of_unchanged {s t : State} (hstatus : KeepsStatus s t) (hexc : KeepsException s t)
    (hlanes : t.lanes = s.lanes) : WrittenAsListed s t := by
  obtain ⟨hestate, hsstate, hdvalid, hfault⟩ := hstatus
  exact ⟨.inl hestate, .inl hsstate, .inl hdvalid, .inl hlanes, .inl ⟨hfault, hexc⟩⟩

theorem nextCommand_cons {s : State} {v : BitVec 64} {rest : List HostAction} (hp : s.pending = .setReg 0 v :: rest) :
    nextCommand s = some (v.setWidth 16) := by
  simp only [nextCommand, hp]

theorem nextIsReset_cons {s : State} {a : HostAction} {rest : List HostAction} (hp : s.pending = a :: rest)
    (ha : a = .reset ∨ ∃ cw, a = .abort cw) : nextIsReset s = true := by
  rw [nextIsReset, hp]
  rcases ha with rfl | ⟨cw, rfl⟩ <;> rfl

/-- R24's list: the permutation commands and HASH. -/
theorem encode_mem_laneWords {i : Instr} (hi : wellFormed i = true) (h : isStage i = true ∨ i = .hash) :
    encode i ∈ laneWords := by
  cases i with
  | iota r | round r => revert r; decide
  | stClr | theta | rho | pi | chi | permute | hash => decide
  | eInit | eNext | search => simp [isStage] at h

theorem ActionEffect.writtenAsListed {s t : State} {a : HostAction} {rest : List HostAction}
    (h : ActionEffect Config.hw { s with pending := rest } a t) (hp : s.pending = a :: rest) (hr : nextIsReset s = false) :
    WrittenAsListed s t := by
  cases h with
  | getReg | getLane | getByte | ignored | setMsgLen =>
    exact writtenAsListed_of_unchanged ⟨rfl, rfl, rfl, rfl⟩ ⟨rfl, rfl⟩ rfl
  | @setByte sp => cases sp <;> exact writtenAsListed_of_unchanged ⟨rfl, rfl, rfl, rfl⟩ ⟨rfl, rfl⟩ rfl
  | setAlphaN v =>
    exact ⟨.inr (.inr (.inr ⟨v, rest, .inl hp⟩)), .inl rfl, .inl rfl, .inl rfl, .inl ⟨rfl, rfl, rfl⟩⟩
  | setTupleL v =>
    exact ⟨.inr (.inr (.inr ⟨v, rest, .inr hp⟩)), .inl rfl, .inl rfl, .inl rfl, .inl ⟨rfl, rfl, rfl⟩⟩
  | setLane k v =>
    have hset : nextSetsLane s = true := by rw [nextSetsLane, hp]
    exact ⟨.inl rfl, .inl rfl, .inl rfl, .inr (.inl hset), .inl ⟨rfl, rfl, rfl⟩⟩
  | illegal _ =>
    exact ⟨.inl rfl, .inl rfl, .inl rfl, .inl rfl, .inr ⟨.illegalCommand, rfl, rfl, nextCommand_cons hp⟩⟩
  | reset ha => exact absurd (nextIsReset_cons hp ha) (by simp [hr])
  | @command v i _ hd effect =>
    have hcmd : nextCommand s = some (encode i) := (nextCommand_cons hp).trans (congrArg some (eq_encode_of_decode hd))
    have hword (j : Instr) (hj : i = j) : nextCommand s = some (encode j) := hj ▸ hcmd
    obtain ⟨hestate, hsstate, hdvalid, hlanes, hexc⟩ := effect.writers
    refine ⟨?_, ?_, ?_, ?_, ?_⟩
    · exact hestate.imp_right (Or.imp (hword .eInit) fun hi => .inl (hword .eNext hi))
    · exact hsstate.imp_right fun ⟨hi, hne⟩ => ⟨hword .search hi, hne⟩
    · exact hdvalid.imp_right fun ⟨hi, hset⟩ => ⟨hword .hash hi, hset⟩
    · exact hlanes.imp_right fun hi => .inr ⟨_, encode_mem_laneWords (wellFormed_of_decode hd) hi, hcmd⟩
    · exact hexc.imp_right fun ⟨x, hfault, hcause, hxinfo⟩ => ⟨x, hfault, hcause, hxinfo ▸ hcmd⟩

theorem step_writtenAsListed {s t : State} (h : step s = .next t) (hr : nextIsReset s = false) : WrittenAsListed s t := by
  obtain rfl | ⟨a, rest, hp, effect⟩ := step_effect h
  · exact writtenAsListed_of_unchanged ⟨rfl, rfl, rfl, rfl⟩ ⟨rfl, rfl⟩ rfl
  · exact effect.writtenAsListed hp hr

/-- Only the two exceptions that say so set FAULT (R223). -/
theorem eq_of_setsFault {x : Exception} (h : setsFault x = true) : x = .illegalCommand ∨ x = .badParameter := by
  cases x with
  | searchExhausted => cases h
  | illegalCommand => exact .inl rfl
  | badParameter => exact .inr rfl

/-- Settles O51: a field that differs is one whose listed writer ran. -/
theorem statusFieldsWrittenOnlyAsListed : Obligations.StatusFieldsWrittenOnlyAsListed := by
  intro s t h hr
  obtain ⟨hestate, hsstate, hdvalid, -, hexc⟩ := step_writtenAsListed h hr
  refine ⟨hestate.resolve_left, hsstate.resolve_left, hdvalid.resolve_left, fun hne => ?_⟩
  obtain ⟨hkept, -⟩ | ⟨x, hfault, hcause, -⟩ := hexc
  · exact absurd hkept hne
  · have hx : setsFault x = true := by
      by_contra hx
      exact hne (by simp [hfault, hx])
    exact ⟨by simp [hfault, hx], hcause ▸ (eq_of_setsFault hx).imp (congrArg some) (congrArg some)⟩

/-- Settles O52: a step that is no reset leaves FAULT, CAUSE and XINFO alone or raises one exception. -/
theorem exceptionRegistersPersist : Obligations.ExceptionRegistersPersist := by
  intro s t h hr
  obtain ⟨hfault, hcause, hxinfo⟩ | ⟨x, hfault, hcause, hcmd⟩ := (step_writtenAsListed h hr).exception
  · exact ⟨hfault.trans, fun hne => hcause ▸ hne, fun hne => absurd hne (by simp [hcause, hxinfo])⟩
  · have hne : t.cause ≠ none := by simp [hcause]
    exact ⟨fun hset => by simp [hfault, hset], fun _ => hne, fun _ => ⟨hne, hcmd⟩⟩

/-- Settles O53: a step that changes a lane is a reset, or its writer is one of R24's list. -/
theorem lanesChangeOnlyAsListed : Obligations.LanesChangeOnlyAsListed := by
  intro s t h hne
  cases hr : nextIsReset s with
  | true => exact .inl rfl
  | false => exact .inr ((step_writtenAsListed h hr).lanes.resolve_left hne)

/-! ### Draw numbers (log entry 2) -/

/-- The seven spaces, in the order of `seedsOf`. -/
def allSpaces : List Space := [.msg, .alpha, .target, .digest, .idx, .cand, .result]

theorem mem_allSpaces (sp : Space) : sp ∈ allSpaces := by cases sp <;> decide

theorem seedsOf_eq_map (s : State) : seedsOf s = allSpaces.map fun sp => (spaceOf s sp).seed := rfl

/-- Draw numbers are fresh when no two spaces have the same one and each is below the next. -/
theorem drawsFresh_iff {s : State} :
    DrawsFresh s ↔
      (∀ a b, (spaceOf s a).seed = (spaceOf s b).seed → a = b) ∧ ∀ sp, (spaceOf s sp).seed < s.draws := by
  rw [DrawsFresh, seedsOf_eq_map, List.nodup_map_iff_inj_on (by decide)]
  simp only [mem_allSpaces, forall_const, List.forall_mem_map]

/-- What a step does to the draw numbers: they only go forward, and stay fresh. -/
def DrawsKept (s t : State) : Prop := DrawsAdvance s t ∧ (DrawsFresh s → DrawsFresh t)

theorem DrawsKept.trans {s t u : State} (h : DrawsKept s t) (h' : DrawsKept t u) : DrawsKept s u := by
  obtain ⟨⟨hdraws, hspaces⟩, hfresh⟩ := h
  obtain ⟨⟨hdraws', hspaces'⟩, hfresh'⟩ := h'
  refine ⟨⟨hdraws.trans hdraws', fun sp => ?_⟩, hfresh' ∘ hfresh⟩
  obtain ⟨hseed', hcells'⟩ | hnew' := hspaces' sp
  · obtain ⟨hseed, hcells⟩ | hnew := hspaces sp
    · exact .inl ⟨hseed'.trans hseed, fun a ha => hcells' a (hcells a ha)⟩
    · exact .inr (hseed' ▸ hnew)
  · exact .inr (hdraws.trans hnew')

/-- No space takes a new number, and no stored byte is lost. -/
theorem drawsKept_of_stored {s t : State} (hdraws : t.draws = s.draws)
    (hseed : ∀ sp, (spaceOf t sp).seed = (spaceOf s sp).seed)
    (hcells : ∀ sp a, (lookupCell (spaceOf s sp).cells a).isSome = true →
      (lookupCell (spaceOf t sp).cells a).isSome = true) : DrawsKept s t := by
  refine ⟨⟨hdraws.ge, fun sp => .inl ⟨hseed sp, hcells sp⟩⟩, fun hfresh => ?_⟩
  rw [drawsFresh_iff] at hfresh ⊢
  simpa only [hseed, hdraws] using hfresh

theorem drawsKept_of_unchanged {s t : State} (hdraws : t.draws = s.draws) (hspaces : spaceOf t = spaceOf s) :
    DrawsKept s t :=
  drawsKept_of_stored hdraws (fun _ => by rw [hspaces]) fun _ _ ha => hspaces ▸ ha

/-- One space becomes unspecified and takes the next number. -/
theorem drawsKept_of_renewed {s t : State} (new : Space) (hdraws : t.draws = s.draws + 1)
    (hspaces : ∀ sp, spaceOf t sp = if sp = new then Memory.unspecified s.draws else spaceOf s sp) : DrawsKept s t := by
  have hnew : (spaceOf t new).seed = s.draws := by rw [hspaces, if_pos rfl]; rfl
  have hold : ∀ sp, sp ≠ new → spaceOf t sp = spaceOf s sp := fun sp hsp => by rw [hspaces, if_neg hsp]
  refine ⟨⟨by omega, fun sp => ?_⟩, fun hfresh => ?_⟩
  · by_cases hsp : sp = new
    · subst hsp; exact .inr hnew.ge
    · rw [hold sp hsp]; exact .inl ⟨rfl, fun _ => id⟩
  · obtain ⟨hinj, hlt⟩ := drawsFresh_iff.1 hfresh
    refine drawsFresh_iff.2 ⟨fun a b hab => ?_, fun sp => ?_⟩
    · by_cases ha : a = new <;> by_cases hb : b = new
      · rw [ha, hb]
      · rw [ha, hnew, hold b hb] at hab
        exact absurd hab (hlt b).ne'
      · rw [hb, hnew, hold a ha] at hab
        exact absurd hab (hlt a).ne
      · rw [hold a ha, hold b hb] at hab
        exact hinj a b hab
    · by_cases hsp : sp = new
      · rw [hsp, hnew]; omega
      · rw [hold sp hsp]; have := hlt sp; omega

/-- A run of bytes stored in one space. -/
theorem drawsKept_of_written {s t : State} (dst : Space) (a : Nat) (bs : List Byte) (hdraws : t.draws = s.draws)
    (hspaces : ∀ sp, spaceOf t sp = if sp = dst then writeBytes (spaceOf s sp) a bs else spaceOf s sp) : DrawsKept s t := by
  refine drawsKept_of_stored hdraws (fun sp => ?_) fun sp k hk => ?_
  · rw [hspaces]
    split_ifs
    · exact writeBytes_seed _ a bs
    · rfl
  · rw [hspaces]
    split_ifs
    · rw [lookupCell_writeBytes]
      split_ifs with hin
      · rw [List.getElem?_eq_getElem (by omega)]; rfl
      · exact hk
    · exact hk

theorem drawsKept_forgetTuple (s : State) : DrawsKept s (forgetTuple s) := by
  have hidx : DrawsKept s { s with idx := Memory.unspecified s.draws, draws := s.draws + 1 } :=
    drawsKept_of_renewed .idx rfl fun sp => by cases sp <;> rfl
  exact hidx.trans (drawsKept_of_renewed .cand rfl fun sp => by cases sp <;> rfl)

theorem drawsKept_emit (p : Params) (t : List Nat) (s : State) : DrawsKept s (emit p t s) := by
  have hidx : DrawsKept (forgetTuple s) { emit p t s with cand := Memory.unspecified (s.draws + 1) } :=
    drawsKept_of_written .idx 0 (t.map (BitVec.ofNat 8)) rfl fun sp => by cases sp <;> rfl
  have hcand : DrawsKept { emit p t s with cand := Memory.unspecified (s.draws + 1) } (emit p t s) :=
    drawsKept_of_written .cand 0 (candidateOf (symbol p s) t) rfl fun sp => by cases sp <;> rfl
  exact (drawsKept_forgetTuple s).trans (hidx.trans hcand)

theorem drawsKept_finishSearch (p : Params) (slot : Option (List Byte)) (s : State) :
    DrawsKept s (finishSearch p slot s) := by
  have hrenewed : DrawsKept s { s with result := Memory.unspecified s.draws, draws := s.draws + 1 } :=
    drawsKept_of_renewed .result rfl fun sp => by cases sp <;> rfl
  refine hrenewed.trans (drawsKept_of_written .result 0 (slot.getD []) ?_ fun sp => ?_)
  · cases slot <;> rfl
  · cases slot <;> cases sp <;> rfl

theorem drawsFresh_resetWith (p : Params) (n : Nat) : DrawsFresh (State.resetWith p n) := by
  constructor
  · simp [seedsOf, State.resetWith, Memory.unspecified]
  · simp [seedsOf, State.resetWith, Memory.unspecified]

theorem drawsKept_hostReset (p : Params) (s : State) : DrawsKept s (hostReset p s) := by
  refine ⟨⟨Nat.le_add_right _ 8, fun sp => .inr ?_⟩, fun _ => drawsFresh_resetWith p s.draws⟩
  cases sp <;> simp [spaceOf, State.resetWith, Memory.unspecified]

theorem CommandEffect.drawsKept {p : Params} {s t : State} {i : Instr} (h : CommandEffect p s i t) : DrawsKept s t := by
  cases h with
  | stage | badParameter | stayExhausted => exact drawsKept_of_unchanged rfl rfl
  | hash fits =>
    refine drawsKept_of_written .digest 0 (hashOf p.rc (message p s)) (by rw [hashCommand_fits fits]) fun sp => ?_
    rw [spaceOf_hashCommand fits]
    split_ifs with hsp
    · rw [hsp]; rfl
    · rfl
  | restart | exhaust => exact drawsKept_forgetTuple s
  | emitFirst | emitNext => exact drawsKept_emit p _ s
  | search _ => exact drawsKept_finishSearch p _ s

theorem ActionEffect.drawsKept {p : Params} {s t : State} {a : HostAction} (h : ActionEffect p s a t) : DrawsKept s t := by
  cases h with
  | getReg | getLane | getByte | ignored | illegal | setMsgLen | setLane =>
    exact drawsKept_of_unchanged rfl rfl
  | command _ effect => exact effect.drawsKept
  | setAlphaN | setTupleL => exact drawsKept_forgetTuple s
  | @setByte sp o _ b =>
    by_cases hsp : HostWritable sp
    · refine drawsKept_of_written sp o [b] (by cases sp <;> rfl) fun sp' => ?_
      rw [spaceOf_writeSpace]
      simp only [hsp, and_true]
      rfl
    · refine drawsKept_of_unchanged (by cases sp <;> rfl) (funext fun sp' => ?_)
      rw [spaceOf_writeSpace, if_neg fun h => hsp h.2]
  | reset _ => exact drawsKept_hostReset p s

theorem step_drawsKept {s t : State} (h : step s = .next t) : DrawsKept s t := by
  obtain rfl | ⟨a, rest, -, effect⟩ := step_effect h
  · exact drawsKept_of_unchanged rfl rfl
  · exact effect.drawsKept

/-- Settles O57: every effect stores bytes, or gives a space the next number, or resets all seven. -/
theorem drawNumbersAreNeverReused : Obligations.DrawNumbersAreNeverReused :=
  ⟨drawsFresh_resetWith Config.hw 0, fun _ _ hfresh h => (step_drawsKept h).2 hfresh, fun _ _ h => (step_drawsKept h).1⟩

/-! ### The frame of the permutation commands (R66) -/

theorem roundIndexLegal_roundArg (k : Fin 10) : roundIndexLegal (roundArg k) = true := by
  revert k; decide

/-- Settles O16: each of the eight commands is a function of the lanes. -/
theorem permutationCommandsTouchOnlyLanes : Obligations.PermutationCommandsTouchOnlyLanes := by
  intro i s t hi h
  have hstage : isStage i = true := by
    rcases hi with hmem | ⟨k, rfl | rfl⟩
    · fin_cases hmem <;> rfl
    · exact roundIndexLegal_roundArg k
    · exact roundIndexLegal_roundArg k
  obtain ⟨f, hf⟩ := exec_stage hstage s
  rw [hf] at h
  cases h
  exact keepsAllButLanes_onLanes f s

/-! ### STATUS as a word (R28) -/

theorem estateCode_lt (e : EState) : (estateCode e).toNat < 3 := by cases e <;> decide

theorem sstateCode_lt (e : SState) : (sstateCode e).toNat < 3 := by cases e <;> decide

/-- The fields of a concatenation do not overlap, so its value is a sum. -/
theorem toNat_append_eq_add {m n : Nat} (x : BitVec m) (y : BitVec n) : (x ++ y).toNat = x.toNat * 2 ^ n + y.toNat := by
  rw [BitVec.toNat_append, ← Nat.shiftLeft_add_eq_or_of_lt y.isLt, Nat.shiftLeft_eq]

theorem statusWord_toNat (s : State) :
    (statusWord s).toNat =
      (estateCode s.estate).toNat + 4 * (sstateCode s.sstate).toNat + 16 * s.dvalid.toNat + 32 * s.fault.toNat := by
  have hzero : (0 : BitVec 10).toNat = 0 := rfl
  simp only [statusWord, toNat_append_eq_add, BitVec.toNat_ofBool, hzero]
  omega

theorem statusWord_field (s : State) (start len : Nat) :
    ((statusWord s).extractLsb' start len).toNat =
      ((estateCode s.estate).toNat + 4 * (sstateCode s.sstate).toNat + 16 * s.dvalid.toNat + 32 * s.fault.toNat) /
        2 ^ start % 2 ^ len := by
  rw [BitVec.extractLsb'_toNat, statusWord_toNat, Nat.shiftRight_eq_div_pow]

/-- Settles O43: STATUS is the sum of its fields, so each of its bit fields is a remainder of a quotient of that sum. -/
theorem statusHasItsLayout : Obligations.StatusHasItsLayout := by
  intro s
  have he := estateCode_lt s.estate
  have hs := sstateCode_lt s.sstate
  have hd := s.dvalid.toNat_le
  have hf := s.fault.toNat_le
  refine ⟨?_, BitVec.eq_of_toNat_eq ?_, ne_of_apply_ne BitVec.toNat ?_, ne_of_apply_ne BitVec.toNat ?_⟩
  · rw [statusWord_toNat]
    cases s.estate <;> cases s.sstate <;> rfl
  · rw [statusWord_field]
    change _ / 2 ^ 6 % 2 ^ 10 = 0
    omega
  · rw [statusWord_field]
    change _ / 2 ^ 0 % 2 ^ 2 ≠ 3
    omega
  · rw [statusWord_field]
    change _ / 2 ^ 2 % 2 ^ 2 ≠ 3
    omega

/-! ### Registers by number (R27) -/

theorem step_cons {s : State} {a : HostAction} {rest : List HostAction} (hp : s.pending = a :: rest) :
    step s = hostAction Config.hw a { s with pending := rest } := takeAction_cons hp

/-- Where the enumerator restarts, only IDX and CAND read otherwise (R31, R32). -/
theorem keepsBytes_restartEnumerator (s : State) : KeepsBytes notTupleSpace s (restartEnumerator s) := by
  intro p sp a hsp
  have hspace : spaceOf (restartEnumerator s) sp = spaceOf (forgetTuple s) sp := by cases sp <;> rfl
  have hidx : sp ≠ .idx := by rintro rfl; cases hsp
  have hcand : sp ≠ .cand := by rintro rfl; cases hsp
  rw [byteAt, hspace, spaceOf_forgetTuple, if_neg hidx, if_neg hcand, byteAt]

/-- A register outside the table of R27 reads as 0. -/
theorem readRegister_unlisted {no : Nat} (h : 8 < no) (s : State) : readRegister s no = 0 := by
  unfold readRegister
  split
  case h_9 => rfl
  all_goals omega

/-- Settles O44: a read hands over the value of the register of its number. -/
theorem registerReadsByNumber : Obligations.RegisterReadsByNumber := by
  intro s no rest hp
  rw [step_cons hp]
  refine congrArg (fun v => Host.Outcome.next (receive v { s with pending := rest })) ?_
  rcases Nat.lt_or_ge 8 no with hunlisted | hlisted
  · rw [readRegister_unlisted hunlisted, if_neg, if_neg, if_neg, if_neg, if_neg, if_neg, if_neg, if_neg] <;> omega
  · rcases Nat.lt_trichotomy no 2 with hbelow | rfl | habove
    · interval_cases no <;> rfl
    · change (causeWord s).setWidth 64 = _
      unfold causeWord
      cases s.cause with
      | none => rfl
      | some x => cases x <;> rfl
    · interval_cases no <;> rfl

/-- Settles O45: one case per writable register, and the others. -/
theorem registerWritesByNumber : Obligations.RegisterWritesByNumber := by
  intro s no v rest hp h0
  rw [step_cons hp]
  change ∃ t, writeRegister v { s with pending := rest } no = .next t ∧ _
  by_cases h4 : no = 4
  · subst h4
    exact ⟨_, writeRegister_msgLen v _, by simp⟩
  by_cases h5 : no = 5
  · subst h5
    refine ⟨_, writeRegister_alphaN v _, by simp, fun _ => ⟨rfl, rfl⟩, by simp, fun _ => ?_, by simp⟩
    exact ⟨rfl, rfl, rfl, rfl, rfl, rfl, ⟨rfl, rfl⟩, ⟨rfl, rfl⟩, keepsBytes_restartEnumerator _, rfl, rfl⟩
  by_cases h6 : no = 6
  · subst h6
    refine ⟨_, writeRegister_tupleL v _, by simp, by simp, fun _ => ⟨rfl, rfl⟩, fun _ => ?_, by simp⟩
    exact ⟨rfl, rfl, rfl, rfl, rfl, rfl, ⟨rfl, rfl⟩, ⟨rfl, rfl⟩, keepsBytes_restartEnumerator _, rfl, rfl⟩
  · exact ⟨_, writeRegister_ignored h0 h4 h5 h6 v _, by simp [h4, h5, h6]⟩

/-! ### Lanes by number (R42) -/

theorem laneRow_eq {k : Fin 25} {i j : Fin 5} (h : k.val = 5 * i.val + j.val) : laneRow k = i :=
  Fin.ext (by simp only [laneRow]; omega)

theorem laneColumn_eq {k : Fin 25} {i j : Fin 5} (h : k.val = 5 * i.val + j.val) : laneColumn k = j :=
  Fin.ext (by simp only [laneColumn]; omega)

/-- Settles O46: LANE number `5·i + j` has row `i` and column `j`, and a write of it is a function of the lanes. -/
theorem laneAccessByNumber : Obligations.LaneAccessByNumber := by
  refine ⟨fun s i j k v rest hk hp => ?_, fun s i j k rest hk hp => ?_⟩
  · refine ⟨onLanes (fun A => setLane A i j v) { s with pending := rest }, ?_, ?_, fun a b hab => ?_,
      keepsAllButLanes_onLanes _ _⟩
    · rw [step_cons hp, hostAction, laneRow_eq hk, laneColumn_eq hk]
      rfl
    · rw [onLanes_lanes, lane_setLane, if_pos ⟨rfl, rfl⟩]
    · rw [onLanes_lanes, lane_setLane, if_neg hab]
  · rw [step_cons hp, hostAction, laneRow_eq hk, laneColumn_eq hk]
    rfl

/-! ### Bytes by space (R35 to R41) -/

theorem byteAt_writeSpace (p : Params) (sp : Space) (a : Nat) (b : Byte) (s : State) (sp' : Space) (a' : Nat) :
    byteAt p (writeSpace sp a b s) sp' a' =
      if sp' = sp ∧ a' = a ∧ HostWritable sp then b else byteAt p s sp' a' := by
  rw [byteAt, spaceOf_writeSpace]
  by_cases hsp : sp' = sp ∧ HostWritable sp
  · obtain ⟨rfl, hw⟩ := hsp
    rw [if_pos ⟨rfl, hw⟩, readByte_writeByte]
    simp only [hw, and_true, true_and]
    rfl
  · rw [if_neg hsp, if_neg fun h => hsp ⟨h.1, h.2.2⟩, byteAt]

/-- Settles O47: a host write stores its byte where the space is writable, and touches no other field. -/
theorem byteAccessBySpace : Obligations.ByteAccessBySpace := by
  refine ⟨fun _ => rfl, fun p s sp a b rest hp ha => ?_, fun p s sp a rest hp ha => ?_⟩
  · refine ⟨writeSpace sp a b { s with pending := rest }, ?_, fun sp' a' => byteAt_writeSpace p sp a b _ sp' a', ?_⟩
    · rw [takeAction_cons hp, hostAction, if_pos ha]
    · cases sp <;> exact ⟨rfl, ⟨rfl, rfl, rfl, rfl⟩, ⟨rfl, rfl⟩, ⟨rfl, rfl, rfl⟩, ⟨rfl, rfl⟩, rfl, rfl⟩
  · rw [takeAction_cons hp, hostAction, if_pos ha]
    rfl

/-! ### Reset (R46) -/

/-- Settles O49: the fields of `State.resetWith`. -/
theorem resetLeavesTheSpecsValues : Obligations.ResetLeavesTheSpecsValues :=
  ⟨lane_zero, rfl, rfl, rfl, rfl, rfl, rfl, rfl, rfl, rfl⟩

end Sys2Proof.Machine

/-! Memory and commands (spec/20_memory.md): what HASH, E.NEXT and SEARCH leave unchanged (R66), HASH issued again (R68),
and where a host access is not expressible (R65). -/

namespace Sys2Proof.Machine

open Sys2Proof.Config

/-- A space that is kept whole reads as before. -/
theorem keepsBytes_of_spaceOf {keep : Space → Bool} {s t : State}
    (h : ∀ sp, keep sp = true → spaceOf t sp = spaceOf s sp) : KeepsBytes keep s t := by
  intro p sp a hsp
  rw [byteAt, h sp hsp, byteAt]

/-! ### HASH (R66, R68) -/

theorem fits_of_msgLen_le {p : Params} {s : State} (h : s.msgLen.toNat ≤ p.msgMax) : ¬MessageTooLong p s := not_lt.2 h

theorem hashCommand_lanes {p : Params} {s : State} (fits : ¬MessageTooLong p s) :
    (hashCommand p s).lanes = (hashOn p.rc StateMatrix.zero (message p s)).lanes := by
  rw [hashCommand_fits fits, hashOn_unit]

theorem keepsBytes_hashCommand {p : Params} {s : State} (fits : ¬MessageTooLong p s) :
    KeepsBytes notDigestSpace s (hashCommand p s) := by
  refine keepsBytes_of_spaceOf fun sp hsp => ?_
  rw [spaceOf_hashCommand fits, if_neg]
  rintro rfl
  cases hsp

/-- DIGEST after HASH: the sixteen bytes of the hash, and past them what it held. -/
theorem byteAt_digest_hashCommand {p : Params} {s : State} (fits : ¬MessageTooLong p s) (a : Nat) :
    byteAt p (hashCommand p s) .digest a =
      if a < 16 then (hashOf p.rc (message p s)).getD a 0 else byteAt p s .digest a := by
  rw [byteAt, spaceOf_hashCommand fits, if_pos rfl, readByte_writeBytes, hashOf_length]
  simp only [Nat.zero_le, true_and, Nat.zero_add, Nat.sub_zero]
  rfl

theorem hashCommand_msgLen {p : Params} {s : State} (fits : ¬MessageTooLong p s) :
    (hashCommand p s).msgLen = s.msgLen := by
  rw [hashCommand_fits fits]

/-- HASH does not write its own operands (R66). -/
theorem message_hashCommand {p : Params} {s : State} (fits : ¬MessageTooLong p s) :
    message p (hashCommand p s) = message p s := by
  rw [hashCommand_fits fits]
  rfl

/-- Settles O23: HASH is an update of the lanes, DIGEST and DVALID, and what it writes to DIGEST has sixteen bytes. -/
theorem hashTouchesOnlyItsResults : Obligations.HashTouchesOnlyItsResults := by
  refine ⟨fun _ => rfl, ?_⟩
  rintro p s _ hlen rfl
  have fits := fits_of_msgLen_le hlen
  have hbytes := keepsBytes_hashCommand fits
  have hpast (a : Nat) (ha : 16 ≤ a) : byteAt p (hashCommand p s) .digest a = byteAt p s .digest a := by
    rw [byteAt_digest_hashCommand fits, if_neg (not_lt.2 ha)]
  rw [hashCommand_fits fits] at hbytes hpast ⊢
  exact ⟨rfl, rfl, rfl, ⟨rfl, rfl⟩, ⟨rfl, rfl, rfl⟩, ⟨rfl, rfl⟩, ⟨rfl, rfl⟩, hbytes, hpast⟩

/-- Settles O25: the second HASH reads the same message, and neither its lanes nor its digest depends on the matrix it
starts from. -/
theorem hashTwiceGivesTheSameDigest : Obligations.HashTwiceGivesTheSameDigest := by
  refine ⟨fun _ => rfl, ?_⟩
  rintro p s _ _ hlen rfl rfl
  have fits := fits_of_msgLen_le hlen
  have fits' : ¬MessageTooLong p (hashCommand p s) := fits_of_msgLen_le (hashCommand_msgLen fits ▸ hlen)
  refine ⟨?_, fun a => ?_⟩
  · rw [hashCommand_lanes fits', message_hashCommand fits, hashCommand_lanes fits]
  · rw [byteAt_digest_hashCommand fits', message_hashCommand fits]
    split_ifs with ha
    · rw [byteAt_digest_hashCommand fits, if_pos ha]
    · rfl

/-! ### E.NEXT (R66, R173) -/

theorem keepsBytes_emit (p : Params) (t : List Nat) (s : State) : KeepsBytes notTupleSpace s (emit p t s) := by
  refine keepsBytes_of_spaceOf fun sp hsp => ?_
  have hidx : sp ≠ .idx := by rintro rfl; cases hsp
  have hcand : sp ≠ .cand := by rintro rfl; cases hsp
  rw [spaceOf_emit, if_neg hidx, if_neg hcand]

/-- Where no tuple is left, the bytes are those of a restart: ESTATE alone tells the two apart. -/
theorem keepsBytes_exhaustTuples (s : State) : KeepsBytes notTupleSpace s (exhaustTuples s) :=
  keepsBytes_restartEnumerator s

/-- What E.NEXT can do with good parameters. -/
theorem nextTuple_cases {p : Params} {s : State} (good : ¬TupleParameterBad p s) :
    (∃ t, nextTuple p s = emit p t s) ∨ nextTuple p s = exhaustTuples s ∨ nextTuple p s = s := by
  have effect := nextTuple_effect p s
  generalize nextTuple p s = u at effect ⊢
  cases effect with
  | stage _ hi => cases hi
  | badParameter hbad =>
    obtain ⟨hi, -⟩ | ⟨-, hbad⟩ := hbad
    · cases hi
    · exact absurd hbad good
  | emitFirst | emitNext => exact .inl ⟨_, rfl⟩
  | exhaust => exact .inr (.inl rfl)
  | stayExhausted => exact .inr (.inr rfl)

/-- Settles O31: emitting a tuple and exhausting the tuples write ESTATE, IDX and CAND alone. -/
theorem nextTouchesOnlyTheTuple : Obligations.NextTouchesOnlyTheTuple := by
  refine ⟨fun _ => rfl, ?_⟩
  rintro p s _ good rfl
  obtain ⟨u, h⟩ | h | h := nextTuple_cases good <;> rw [h]
  · exact ⟨rfl, rfl, rfl, rfl, ⟨rfl, rfl⟩, ⟨rfl, rfl, rfl⟩, ⟨rfl, rfl⟩, ⟨rfl, rfl⟩, keepsBytes_emit p u s⟩
  · exact ⟨rfl, rfl, rfl, rfl, ⟨rfl, rfl⟩, ⟨rfl, rfl, rfl⟩, ⟨rfl, rfl⟩, ⟨rfl, rfl⟩, keepsBytes_exhaustTuples s⟩
  · exact ⟨rfl, rfl, rfl, rfl, ⟨rfl, rfl⟩, ⟨rfl, rfl, rfl⟩, ⟨rfl, rfl⟩, ⟨rfl, rfl⟩, fun _ _ _ _ => rfl⟩

/-! ### SEARCH (R66, R204) -/

theorem keepsBytes_finishSearch (p : Params) (slot : Option (List Byte)) (s : State) :
    KeepsBytes notResultSpace s (finishSearch p slot s) := by
  refine keepsBytes_of_spaceOf fun sp hsp => ?_
  rw [spaceOf_finishSearch, if_neg]
  rintro rfl
  cases hsp

/-- Neither end of a search sets FAULT: SearchExhausted is the exception that does not (R223). -/
theorem finishSearch_fault (p : Params) (slot : Option (List Byte)) (s : State) :
    (finishSearch p slot s).fault = s.fault := by
  cases slot with
  | none => exact Bool.or_false _
  | some c => rfl

/-- Settles O40: with good parameters SEARCH is `finishSearch`, on a match and on none. -/
theorem searchTouchesOnlyItsResult : Obligations.SearchTouchesOnlyItsResult := by
  refine ⟨fun _ => rfl, ?_⟩
  rintro p s _ good rfl
  rw [searchCommand_good good]
  generalize (searchRun p s.draws s).slot = slot
  have hfault := finishSearch_fault p slot s
  have hbytes := keepsBytes_finishSearch p slot s
  cases slot <;> exact ⟨rfl, rfl, rfl, hfault, ⟨rfl, rfl, rfl⟩, ⟨rfl, rfl⟩, hbytes⟩

/-! ### Where a step stops (R65, log entry 13) -/

/-- Every command ends in a next state. -/
theorem exec_completes (i : Instr) (s : State) : ∃ t, exec i s = .next t := by
  cases i with
  | stClr | theta | rho | pi | chi | iota | round | permute | hash | eInit | eNext | search => exact ⟨_, rfl⟩

theorem issueCommand_completes (cw : Word) (s : State) : ∃ t, issueCommand cw s = .next t := by
  cases hd : decode cw with
  | ok i => rw [issueCommand_legal hd]; exact exec_completes i s
  | error e => exact ⟨_, issueCommand_illegal hd s⟩

theorem writeRegister_completes (v : BitVec 64) (s : State) (no : Nat) : ∃ t, writeRegister v s no = .next t := by
  unfold writeRegister
  split
  case h_1 => exact issueCommand_completes _ s
  all_goals exact ⟨_, rfl⟩

/-- The host's action accesses byte `o` of the space `sp`. -/
def AccessesByte (a : HostAction) (sp : Space) (o : Nat) : Prop := a = .getByte sp o ∨ ∃ b, a = .setByte sp o b

/-- Past the capacity of its space, an access stops. -/
theorem hostAction_outside {p : Params} {a : HostAction} {sp : Space} {o : Nat} (ha : AccessesByte a sp o)
    (ho : capacity p sp ≤ o) (s : State) : hostAction p a s = .fault (.noSuchElement sp o) := by
  obtain rfl | ⟨b, rfl⟩ := ha
  · exact if_neg (not_lt.2 ho)
  · exact if_neg (not_lt.2 ho)

/-- An action that is no access past the capacity of a space completes. -/
theorem hostAction_completes_or_outside (p : Params) (a : HostAction) (s : State) :
    (∃ t, hostAction p a s = .next t) ∨ ∃ sp o, AccessesByte a sp o ∧ capacity p sp ≤ o := by
  cases a with
  | setReg no v => exact .inl (writeRegister_completes v s no)
  | getReg | setLane | getLane | reset | abort => exact .inl ⟨_, rfl⟩
  | setByte sp o b =>
    rcases Nat.lt_or_ge o (capacity p sp) with inside | outside
    · exact .inl ⟨_, if_pos inside⟩
    · exact .inr ⟨sp, o, .inr ⟨b, rfl⟩, outside⟩
  | getByte sp o =>
    rcases Nat.lt_or_ge o (capacity p sp) with inside | outside
    · exact .inl ⟨_, if_pos inside⟩
    · exact .inr ⟨sp, o, .inl rfl, outside⟩

/-- A step completes, or the host's next action is an access past the capacity of a space and the step names it. -/
theorem takeAction_completes_or_outside (p : Params) (s : State) :
    (∃ t, takeAction p s = .next t) ∨
    ∃ a rest sp o, s.pending = a :: rest ∧ AccessesByte a sp o ∧ capacity p sp ≤ o ∧
      takeAction p s = .fault (.noSuchElement sp o) := by
  cases hp : s.pending with
  | nil => exact .inl ⟨s, takeAction_idle hp⟩
  | cons a rest =>
    rw [takeAction_cons hp]
    refine (hostAction_completes_or_outside p a _).imp_right ?_
    rintro ⟨sp, o, ha, ho⟩
    exact ⟨a, rest, sp, o, rfl, ha, ho, hostAction_outside ha ho _⟩

theorem takeAction_fault_iff {p : Params} {s : State} {r : Fault} :
    takeAction p s = .fault r ↔ ∃ sp o rest, r = .noSuchElement sp o ∧ capacity p sp ≤ o ∧
      (s.pending = .getByte sp o :: rest ∨ ∃ b, s.pending = .setByte sp o b :: rest) := by
  constructor
  · intro h
    obtain ⟨t, ht⟩ | ⟨a, rest, sp, o, hp, ha, ho, hfault⟩ := takeAction_completes_or_outside p s
    · cases h.symm.trans ht
    · cases h.symm.trans hfault
      obtain rfl | ⟨b, rfl⟩ := ha
      · exact ⟨sp, o, rest, rfl, ho, .inl hp⟩
      · exact ⟨sp, o, rest, rfl, ho, .inr ⟨b, hp⟩⟩
  · rintro ⟨sp, o, rest, rfl, ho, hp | ⟨b, hp⟩⟩
    · rw [takeAction_cons hp]; exact hostAction_outside (.inl rfl) ho _
    · rw [takeAction_cons hp]; exact hostAction_outside (.inr ⟨b, rfl⟩) ho _

theorem takeAction_ne_refused (p : Params) (s : State) (r : Refusal) : takeAction p s ≠ .refused r := by
  intro h
  obtain ⟨t, ht⟩ | ⟨-, -, sp, o, -, -, -, hfault⟩ := takeAction_completes_or_outside p s
  · cases h.symm.trans ht
  · cases h.symm.trans hfault

/-- Settles O48: commands and register accesses complete, so only the two byte accesses are left, and each compares its
offset with the capacity. -/
theorem stepStopsOnlyOutsideASpace : Obligations.StepStopsOnlyOutsideASpace :=
  ⟨fun _ => rfl, fun _ _ _ => takeAction_fault_iff, takeAction_ne_refused⟩

end Sys2Proof.Machine

/-! Encoding (spec/30_encoding.md): decoding and encoding are inverse to each other, the thirty legal words, the terms whose
round index no word carries, and the assembler's statements. -/

namespace Sys2Proof.Machine

/-! ### The decoder on the fields of a word (R90 to R95) -/

theorem opField_encode (i : Instr) : opField (encode i) = opcodeOf i := BitVec.extractLsb'_append_eq_left

theorem argField_encode (i : Instr) : argField (encode i) = argumentOf i := BitVec.extractLsb'_append_eq_right

theorem decodeFormatN_of_argField {w : Word} (harg : argField w = 0) (i : Instr) : decodeFormatN w i = .ok i :=
  if_pos harg

theorem decodeFormatR_of_argField {w : Word} {r : BitVec 4} (harg : argField w = (0 : BitVec 4) ++ r)
    (hr : roundIndexLegal r = true) (mk : BitVec 4 → Instr) : decodeFormatR w mk = .ok (mk r) := by
  have hfields : upperArgField w ++ roundField w = (0 : BitVec 4) ++ r := (upperArgField_append_roundField w).trans harg
  have hupper : upperArgField w = 0 := by
    calc upperArgField w = (upperArgField w ++ roundField w).extractLsb' 4 4 := BitVec.extractLsb'_append_eq_left.symm
      _ = ((0 : BitVec 4) ++ r).extractLsb' 4 4 := by rw [hfields]
      _ = 0 := BitVec.extractLsb'_append_eq_left
  have hround : roundField w = r := by rwa [hupper, BitVec.append_right_inj] at hfields
  rw [decodeFormatR, if_neg (not_ne_iff.2 hupper), hround, if_pos hr]

/-- A word decodes to an instruction exactly when the instruction is well formed and the word carries its opcode and
its argument. -/
theorem decode_eq_ok_iff {w : Word} {i : Instr} :
    decode w = .ok i ↔ opField w = opcodeOf i ∧ argField w = argumentOf i ∧ wellFormed i = true := by
  refine ⟨decode_ok_fields, ?_⟩
  rintro ⟨hop, harg, hi⟩
  rw [decode, hop]
  cases i with
  | iota r | round r => exact decodeFormatR_of_argField harg hi _
  | stClr | theta | rho | pi | chi | permute | hash | eInit | eNext | search =>
    exact decodeFormatN_of_argField harg _

/-- Settles O2: the word of an instruction carries its opcode and its argument, which is all the decoder reads. -/
theorem encodedInstructionDecodesToItself : Obligations.EncodedInstructionDecodesToItself :=
  fun i hi => decode_eq_ok_iff.2 ⟨opField_encode i, argField_encode i, hi⟩

/-- Settles O3: a word is its opcode and its argument, and both are those of what it decodes to. -/
theorem legalWordIsItsInstructionsWord : Obligations.LegalWordIsItsInstructionsWord :=
  fun _ _ h => ⟨(eq_encode_of_decode h).symm, wellFormed_of_decode h⟩

/-! ### The thirty legal words (R94, R95) -/

theorem encode_mem_legalWords {i : Instr} (hi : wellFormed i = true) : encode i ∈ legalWords := by
  cases i with
  | iota r | round r => revert r; decide
  | stClr | theta | rho | pi | chi | permute | hash | eInit | eNext | search => decide

/-- The instruction of each word of `legalWords`, in the order of that list. -/
def legalInstrs : List Instr :=
  [.stClr, .theta, .rho, .pi, .chi] ++ (List.finRange 10).map (fun k => .iota (roundArg k)) ++
    (List.finRange 10).map (fun k => .round (roundArg k)) ++ [.permute, .hash, .eInit, .eNext, .search]

theorem legalWords_eq_map_encode : legalWords = legalInstrs.map encode := by decide

theorem wellFormed_of_mem_legalInstrs : ∀ i ∈ legalInstrs, wellFormed i = true := by decide

theorem exists_decode_eq_ok_iff_mem_legalWords (w : Word) : (∃ i, decode w = .ok i) ↔ w ∈ legalWords := by
  constructor
  · rintro ⟨i, h⟩
    rw [eq_encode_of_decode h]
    exact encode_mem_legalWords (wellFormed_of_decode h)
  · rw [legalWords_eq_map_encode]
    intro hw
    obtain ⟨i, hi, rfl⟩ := List.mem_map.1 hw
    exact ⟨i, encodedInstructionDecodesToItself i (wellFormed_of_mem_legalInstrs i hi)⟩

/-- Settles O4: a legal word is the word of a well-formed instruction, and those are the thirty of the list. -/
theorem exactlyThirtyWordsAreLegal : Obligations.ExactlyThirtyWordsAreLegal :=
  ⟨rfl, by decide, exists_decode_eq_ok_iff_mem_legalWords⟩

/-- Settles O1: sixteen closed words. -/
theorem commandWordsDecodeAsListed : Obligations.CommandWordsDecodeAsListed := by
  unfold Obligations.CommandWordsDecodeAsListed
  decide

/-! ### A round index that no word carries (R95, R228, log entry 14) -/

theorem onlyRaises_raise (x : Exception) (cw : Word) (s : State) : OnlyRaises x cw s (raise x cw s) :=
  ⟨rfl, rfl, rfl, rfl, rfl, rfl, rfl, ⟨rfl, rfl, rfl⟩, ⟨rfl, rfl⟩, ⟨rfl, rfl⟩,
    keepsBytes_of_spaceOf fun sp _ => by cases sp <;> rfl⟩

theorem onRound_illegal {r : BitVec 4} (hr : 10 ≤ r.toNat) (i : Instr) (f : Fin 10 → StateMatrix → StateMatrix)
    (s : State) : onRound i r f s = raise .illegalCommand (encode i) s := by
  rw [onRound, roundIndex_illegal (not_lt.2 hr)]

theorem exec_iota_illegal {r : BitVec 4} (hr : 10 ≤ r.toNat) (s : State) :
    exec (.iota r) s = .next (raise .illegalCommand (encode (.iota r)) s) :=
  congrArg _ (onRound_illegal hr _ _ s)

theorem exec_round_illegal {r : BitVec 4} (hr : 10 ≤ r.toNat) (s : State) :
    exec (.round r) s = .next (raise .illegalCommand (encode (.round r)) s) :=
  congrArg _ (onRound_illegal hr _ _ s)

theorem encode_iota (r : BitVec 4) : encode (.iota r) = BitVec.ofNat 16 (0x0600 + r.toNat) := by revert r; decide

theorem encode_round (r : BitVec 4) : encode (.round r) = BitVec.ofNat 16 (0x0700 + r.toNat) := by revert r; decide

/-- Settles O18: such a term raises IllegalCommand with the word that `encode` gives it. -/
theorem illegalRoundIndexOnlyRaises : Obligations.IllegalRoundIndexOnlyRaises := by
  intro r s hr
  rw [← encode_iota, ← encode_round]
  exact ⟨⟨_, exec_iota_illegal hr s, onlyRaises_raise _ _ s⟩, ⟨_, exec_round_illegal hr s, onlyRaises_raise _ _ s⟩⟩

/-! ### Assembler text (R97, R98) -/

/-- Settles O58: six closed lines. -/
theorem statementsAssembleAsWritten : Obligations.StatementsAssembleAsWritten :=
  ⟨by decide, by decide, by decide, by decide, by decide, by decide⟩

@[simp] theorem length_setBytes (sp : Space) (bs : List Byte) : (setBytes sp bs).length = bs.length :=
  List.length_mapIdx

theorem getElem?_setBytes (sp : Space) (bs : List Byte) (k : Nat) :
    (setBytes sp bs)[k]? = (bs[k]?).map (HostAction.setByte sp k) := List.getElem?_mapIdx

/-- LOADMSG and LOADALPHA: the bytes of the list, then one more action, then nothing (R98). -/
theorem getElem?_setBytes_concat (sp : Space) (bs : List Byte) (a : HostAction) (k : Nat) :
    (setBytes sp bs ++ [a])[k]? = if k < bs.length then (bs[k]?).map (HostAction.setByte sp k)
      else if k = bs.length then some a else none := by
  rw [List.getElem?_append, length_setBytes, getElem?_setBytes, List.getElem?_singleton]
  split_ifs with hlt hsub heq heq
  · rfl
  · rfl
  · omega
  · omega
  · rfl

theorem loadTarget_of_length {bs : List Byte} (h : bs.length = 16) : loadTarget bs = some (setBytes .target bs) :=
  if_pos h

theorem loadState_of_length {ws : List Word} (h : ws.length = 25) :
    loadState ws = some (List.ofFn fun k : Fin 25 => HostAction.setLane k (ws.getD k.val 0)) := by
  rw [loadState, if_pos h, List.ofFn_eq_map]

/-- Settles O59: element by element, the bytes by their offset and the words by their lane number. -/
theorem pseudoInstructionsExpand : Obligations.PseudoInstructionsExpand := by
  refine ⟨fun bs k => getElem?_setBytes_concat .msg bs _ k,
    fun bs k => getElem?_setBytes_concat .alpha bs _ k, fun bs h => ?_, fun ws h => ?_⟩
  · exact ⟨_, loadTarget_of_length h, (length_setBytes _ bs).trans h, fun k _ => getElem?_setBytes _ bs k⟩
  · refine ⟨_, loadState_of_length h, List.length_ofFn, fun k => ?_⟩
    have hk : k.val < ws.length := k.isLt.trans_eq h.symm
    rw [List.getElem?_ofFn, dif_pos k.isLt, List.getElem?_eq_getElem hk, Option.map_some,
      List.getD_eq_getElem ws 0 hk]

end Sys2Proof.Machine

/-! Permutation (spec/40_permutation.md): the eight commands as functions of the lanes, and why none of the five stages
loses anything. -/

namespace Sys2Proof.Machine

open Sys2Proof.Config

/-! ### The commands on the lanes of H0 (R112 to R119) -/

theorem exec_stClr (s : State) : exec .stClr s = .next (onLanes clearMatrix s) := rfl

theorem exec_theta (s : State) : exec .theta s = .next (onLanes thetaStage s) := rfl

theorem exec_rho (s : State) : exec .rho s = .next (onLanes rhoStage s) := rfl

theorem exec_pi (s : State) : exec .pi s = .next (onLanes piStage s) := rfl

theorem exec_permute (s : State) : exec .permute s = .next (onLanes (permuteStage Config.hw.rc) s) := rfl

theorem roundIndex_roundArg (k : Fin 10) : roundIndex (roundArg k) = some k := by revert k; decide

theorem toNat_roundArg (k : Fin 10) : (roundArg k).toNat = k.val := by revert k; decide

theorem onRound_roundArg (i : Instr) (k : Fin 10) (f : Fin 10 → StateMatrix → StateMatrix) (s : State) :
    onRound i (roundArg k) f s = onLanes (f k) s := by
  rw [onRound, roundIndex_roundArg]

theorem exec_iota_roundArg (k : Fin 10) (s : State) :
    exec (.iota (roundArg k)) s = .next (onLanes (iotaStage Config.hw.rc k) s) :=
  congrArg _ (onRound_roundArg _ k _ s)

theorem exec_round_roundArg (k : Fin 10) (s : State) :
    exec (.round (roundArg k)) s = .next (onLanes (roundStage Config.hw.rc k) s) :=
  congrArg _ (onRound_roundArg _ k _ s)

/-! ### ST.CLR (R112) -/

/-- Settles O8: `clearMatrix` ignores the matrix it is given. -/
theorem stClrZeroesEveryLane : Obligations.StClrZeroesEveryLane :=
  ⟨by decide, fun s => ⟨_, exec_stClr s, lane_clearMatrix s.lanes, keepsAllButLanes_onLanes clearMatrix s⟩⟩

/-! ### THETA (R113) -/

theorem ofNat_rotlArith (v : Word) {n : Nat} (hn : n < 16) : BitVec.ofNat 16 (rotlArith v n) = rotl16 v n := by
  rw [← rotl16_toNat v hn, BitVec.ofNat_toNat, BitVec.setWidth_eq]

theorem lane_thetaStage_arith (S : StateMatrix) (i j : Fin 5) :
    lane (thetaStage S) i j =
      lane S i j ^^^ (parity S (i + 4) ^^^ BitVec.ofNat 16 (rotlArith (parity S (i + 1)) 1)) := by
  rw [lane_thetaStage, thetaMask, ofNat_rotlArith _ (by decide)]

/-- Settles O9: the five masks are `thetaMask` at each row, with the row index modulo 5 evaluated. -/
theorem thetaXorsNeighbourParities : Obligations.ThetaXorsNeighbourParities := by
  refine fun s => ⟨_, exec_theta s, fun c hc j => ?_, keepsAllButLanes_onLanes thetaStage s⟩
  obtain rfl : c = parity s.lanes := funext hc
  have row (i : Fin 5) := lane_thetaStage_arith s.lanes i j
  exact ⟨row 0, row 1, row 2, row 3, row 4⟩

/-! ### RHO (R114) -/

/-- Settles O10: the rotation of each lane in its arithmetic form. -/
theorem rhoRotatesEachLane : Obligations.RhoRotatesEachLane := by
  refine ⟨by decide, fun s => ⟨_, exec_rho s, fun i j => ?_, keepsAllButLanes_onLanes rhoStage s⟩⟩
  rw [onLanes_lanes, lane_rhoStage, rotl16_toNat _ (Nat.mod_lt _ (by decide))]

/-! ### PI (R115) -/

/-- The column that `piStage` reads from at the place `((3·i + 2·j) mod 5, i)` is `j`. -/
theorem piSource_piTarget (i j : Fin 5) : 3 * mod5 (3 * i.val + 2 * j.val) + i = j := by revert i j; decide

theorem lane_piStage_target (S : StateMatrix) (i j : Fin 5) :
    lane (piStage S) (mod5 (3 * i.val + 2 * j.val)) i = lane S i j := by
  rw [lane_piStage, piSource_piTarget]

theorem eq_zero_of_piTarget_eq : ∀ i : Fin 5, mod5 (3 * i.val + 2 * i.val) = i → i = 0 := by decide

/-- Settles O11: the place a lane goes to, with the row it came from, gives back the column it came from. -/
theorem piRelocatesEachLane : Obligations.PiRelocatesEachLane := by
  refine ⟨by decide, fun s => ⟨_, exec_pi s, lane_piStage_target s.lanes, keepsAllButLanes_onLanes piStage s⟩, ?_, ?_⟩
  · rintro i j _ l hplace rfl
    rw [← piSource_piTarget i j, hplace, piSource_piTarget]
  · intro i j hplace hij
    subst hij
    exact eq_zero_of_piTarget_eq i hplace

/-! ### IOTA (R117) -/

theorem iotaStage_iotaStage (rc : Fin 10 → Word) (r : Fin 10) (S : StateMatrix) :
    iotaStage rc r (iotaStage rc r S) = S := by
  refine matrix_ext fun i j => ?_
  by_cases origin : i = 0 ∧ j = 0
  · obtain ⟨rfl, rfl⟩ := origin
    rw [lane_iotaStage, if_pos ⟨rfl, rfl⟩, lane_iotaStage, if_pos ⟨rfl, rfl⟩, BitVec.xor_assoc, BitVec.xor_self,
      BitVec.xor_zero]
  · rw [lane_iotaStage, if_neg origin, lane_iotaStage, if_neg origin]

theorem decode_iota_word (k : Fin 10) : decode (BitVec.ofNat 16 (0x0600 + k.val)) = .ok (.iota (roundArg k)) := by
  rw [← toNat_roundArg k, ← encode_iota]
  exact encodedInstructionDecodesToItself _ (roundIndexLegal_roundArg k)

theorem iota_word_not_legal : ∀ r < 16, 10 ≤ r → BitVec.ofNat 16 (0x0600 + r) ∉ legalWords := by decide

/-- Settles O13: `iotaStage` writes lane (0,0) alone, and XOR with one constant twice is no change. -/
theorem iotaXorsItsConstant : Obligations.IotaXorsItsConstant := by
  refine ⟨decode_iota_word, fun r hlow hhigh i hd => ?_, fun k s => ?_⟩
  · exact iota_word_not_legal r hhigh hlow ((exists_decode_eq_ok_iff_mem_legalWords _).1 ⟨i, hd⟩)
  · refine ⟨_, _, exec_iota_roundArg k s, ?_, fun i j hij => ?_, keepsAllButLanes_onLanes _ s, exec_iota_roundArg k _, ?_⟩
    · rw [onLanes_lanes, lane_iotaStage, if_pos ⟨rfl, rfl⟩]
    · rw [onLanes_lanes, lane_iotaStage, if_neg hij]
    · exact iotaStage_iotaStage _ k s.lanes

/-! ### ROUND (R118) -/

theorem decode_round_word (k : Fin 10) : decode (BitVec.ofNat 16 (0x0700 + k.val)) = .ok (.round (roundArg k)) := by
  rw [← toNat_roundArg k, ← encode_round]
  exact encodedInstructionDecodesToItself _ (roundIndexLegal_roundArg k)

theorem zero_xor_word (w : Word) : 0 ^^^ w = w := BitVec.zero_xor

/-- The four stages without a constant keep the zero matrix. -/
theorem constantFreeStages_zero : chiStage (piStage (rhoStage (thetaStage StateMatrix.zero))) = StateMatrix.zero := by
  decide

theorem lane_roundStage_zero (rc : Fin 10 → Word) (k : Fin 10) (i j : Fin 5) :
    lane (roundStage rc k StateMatrix.zero) i j = if i = 0 ∧ j = 0 then rc k else 0 := by
  rw [roundStage, constantFreeStages_zero, lane_iotaStage, lane_zero, lane_zero, zero_xor_word]

/-- Settles O14: `roundStage` is the composition of the five stages, and each of the five commands applies one of them. -/
theorem roundIsTheFiveStagesInOrder : Obligations.RoundIsTheFiveStagesInOrder := by
  refine ⟨decode_round_word, fun k s => ⟨_, _, _, _, _, exec_theta s, exec_rho _, exec_pi _, exec_chi _,
    exec_iota_roundArg k _, exec_round_roundArg k s, fun hzero i j => ?_⟩⟩
  have cleared : s.lanes = StateMatrix.zero := matrix_ext fun a b => (hzero a b).trans (lane_zero a b).symm
  have lanes_after := lane_roundStage_zero Config.hw.rc k i j
  rwa [← cleared] at lanes_after

/-! ### PERMUTE (R119) -/

theorem onLanes_onLanes (f g : StateMatrix → StateMatrix) (s : State) :
    onLanes g (onLanes f s) = onLanes (fun A => g (f A)) s := rfl

/-- The matrix after the first `n` rounds of the permutation. -/
def firstRounds (rc : Fin 10 → Word) (n : Nat) (S : StateMatrix) : StateMatrix :=
  ((List.finRange 10).take n).foldl (fun A r => roundStage rc r A) S

theorem firstRounds_ten (rc : Fin 10 → Word) : firstRounds rc 10 = permuteStage rc := rfl

theorem firstRounds_succ (rc : Fin 10 → Word) (k : Fin 10) :
    firstRounds rc (k.val + 1) = fun S => roundStage rc k (firstRounds rc k.val S) := by
  have hk : k.val < (List.finRange 10).length := k.isLt.trans_eq List.length_finRange.symm
  funext S
  rw [firstRounds, List.take_succ_eq_append_getElem hk, List.foldl_append, List.getElem_finRange]
  rfl

/-- Settles O15: the states after the first `n` rounds, from none of them to all ten. -/
theorem permuteIsTenRoundsInOrder : Obligations.PermuteIsTenRoundsInOrder := by
  refine fun s => ⟨fun n => onLanes (firstRounds Config.hw.rc n) s, rfl, fun k => ?_, ?_⟩
  · simp only [exec_round_roundArg, onLanes_onLanes, firstRounds_succ]
  · simp only [exec_permute, firstRounds_ten]

/-! ### The rotation for every count (R12) -/

/-- Bit `k` moves to bit `(k + n) mod 16`, a full turn or more included. -/
theorem getLsbD_rotl16_moved (v : Word) (n : Nat) {k : Nat} (hk : k < 16) :
    (rotl16 v n).getLsbD ((k + n) % 16) = v.getLsbD k := by
  have hrot : rotl16 v n = rotl16 v (n % 16) := BitVec.rotateLeft_mod_eq_rotateLeft.symm
  rw [hrot, ← Nat.add_mod_mod]
  exact getLsbD_rotl16 v (Nat.mod_lt n (by decide)) hk

/-- A word that has every bit of `v` moved by `n` is the rotation of `v`. -/
theorem eq_rotl16_of_moved {v w : Word} {n : Nat} (h : ∀ k < 16, w.getLsbD ((k + n) % 16) = v.getLsbD k) :
    w = rotl16 v n := by
  apply BitVec.eq_of_getLsbD_eq
  intro i hi
  have source : ((i + 15 * n) % 16 + n) % 16 = i := by omega
  have hk : (i + 15 * n) % 16 < 16 := Nat.mod_lt _ (by decide)
  rw [← source, h _ hk, getLsbD_rotl16_moved v n hk]

theorem rotl16_xor (v w : Word) (n : Nat) : rotl16 (v ^^^ w) n = rotl16 v n ^^^ rotl16 w n :=
  (eq_rotl16_of_moved fun k hk => by
    rw [BitVec.getLsbD_xor, BitVec.getLsbD_xor, getLsbD_rotl16_moved v n hk, getLsbD_rotl16_moved w n hk]).symm

theorem rotl16_rotl16 (v : Word) (m n : Nat) : rotl16 (rotl16 v m) n = rotl16 v (m + n) :=
  eq_rotl16_of_moved fun k hk => by
    rw [← Nat.add_assoc, ← Nat.mod_add_mod, getLsbD_rotl16_moved _ n (Nat.mod_lt _ (by decide)),
      getLsbD_rotl16_moved v m hk]

theorem rotl16_full_turns (v : Word) (q : Nat) : rotl16 v (16 * q) = v :=
  (eq_rotl16_of_moved fun k hk => by rw [Nat.add_mul_mod_self_left, Nat.mod_eq_of_lt hk]).symm

theorem rotl16_injective (n : Nat) : Function.Injective fun v : Word => rotl16 v n := by
  intro v w (h : rotl16 v n = rotl16 w n)
  apply BitVec.eq_of_getLsbD_eq
  intro k hk
  rw [← getLsbD_rotl16_moved v n hk, h, getLsbD_rotl16_moved w n hk]

/-! ### THETA loses nothing

THETA takes the row parities `c` to `c[i] XOR c[i−1] XOR rotl16(c[i+1], 1)`. XOR is its own inverse, so doing such a pass
twice is one pass of twice the distance. After sixteen passes the rotation is a full turn and the distance is 16 mod 5 = 1,
after thirty-two it is 2; and those two undo each other. -/

/-- The parities after `n` passes of THETA, for `n` a power of two. -/
def spreadParity (n : Nat) (c : Fin 5 → Word) (i : Fin 5) : Word := c i ^^^ c (i - mod5 n) ^^^ rotl16 (c (i + mod5 n)) n

theorem mod5_add_self (n : Nat) : mod5 (n + n) = mod5 n + mod5 n := Fin.ext (Nat.add_mod n n 5)

/-- What two terms of a XOR share cancels. -/
theorem xor_xor_cancel_left (v w : Word) : v ^^^ (v ^^^ w) = w := by
  rw [← BitVec.xor_assoc, BitVec.xor_self, BitVec.zero_xor]

theorem spreadParity_spreadParity (n : Nat) (c : Fin 5 → Word) :
    spreadParity n (spreadParity n c) = spreadParity (n + n) c := by
  funext i
  simp only [spreadParity, rotl16_xor, rotl16_rotl16, mod5_add_self, sub_add_cancel, add_sub_cancel_right, sub_sub,
    add_assoc]
  grind [xor_xor_cancel_left]

theorem spreadParity_thirtyTwo_sixteen (c : Fin 5 → Word) : spreadParity 32 (spreadParity 16 c) = c := by
  funext i
  have one : mod5 16 = 1 := rfl
  have two : mod5 32 = 2 := rfl
  have wraps : i - 2 - 1 = i + 2 ∧ i - 2 + 1 = i - 1 ∧ i + 2 - 1 = i + 1 ∧ i + 2 + 1 = i - 2 := by revert i; decide
  obtain ⟨h1, h2, h3, h4⟩ := wraps
  simp only [spreadParity, rotl16_full_turns _ 1, rotl16_full_turns _ 2, one, two, h1, h2, h3, h4]
  grind [xor_xor_cancel_left]

/-- Injectivity goes from a pass of twice the distance down to the pass itself. -/
theorem spreadParity_injective_of_double {n : Nat} (h : Function.Injective (spreadParity (n + n))) :
    Function.Injective (spreadParity n) := by
  intro c d hcd
  apply h
  rw [← spreadParity_spreadParity, hcd, spreadParity_spreadParity]

theorem spreadParity_one_injective : Function.Injective (spreadParity 1) := by
  have sixteen : Function.Injective (spreadParity 16) :=
    Function.LeftInverse.injective spreadParity_thirtyTwo_sixteen
  have eight : Function.Injective (spreadParity 8) := spreadParity_injective_of_double sixteen
  have four : Function.Injective (spreadParity 4) := spreadParity_injective_of_double eight
  have two : Function.Injective (spreadParity 2) := spreadParity_injective_of_double four
  exact spreadParity_injective_of_double two

theorem parity_thetaStage (S : StateMatrix) : parity (thetaStage S) = spreadParity 1 (parity S) := by
  funext i
  have before : i - mod5 1 = i + 4 := by revert i; decide
  have row : parity (thetaStage S) i = parity S i ^^^ thetaMask S i := by
    simp only [parity, lane_thetaStage]
    grind
  rw [row, thetaMask, spreadParity, before, BitVec.xor_assoc]
  rfl

theorem thetaStage_injective : Function.Injective thetaStage := by
  intro A B h
  have parities : parity A = parity B :=
    spreadParity_one_injective (by rw [← parity_thetaStage, h, parity_thetaStage])
  have masks (i : Fin 5) : thetaMask A i = thetaMask B i := by rw [thetaMask, thetaMask, parities]
  refine matrix_ext fun i j => ?_
  have lanes : lane (thetaStage A) i j = lane (thetaStage B) i j := by rw [h]
  rw [lane_thetaStage, lane_thetaStage, masks] at lanes
  exact (BitVec.xor_left_inj _).1 lanes

/-! ### RHO, PI, CHI and IOTA lose nothing -/

theorem rhoStage_injective : Function.Injective rhoStage := by
  intro A B h
  refine matrix_ext fun i j => rotl16_injective ((7 * i.val + j.val) % 16) ?_
  change rotl16 _ _ = rotl16 _ _
  rw [← lane_rhoStage, h, lane_rhoStage]

theorem piStage_injective : Function.Injective piStage := by
  intro A B h
  refine matrix_ext fun i j => ?_
  rw [← lane_piStage_target, h, lane_piStage_target]

/-- What CHI does to a lane `x` with the lanes `y` and `z` of the next two rows (R116). -/
def chiLane (x y z : Word) : Word := x ^^^ (~~~y &&& z)

/-- The inverse of CHI on the five lanes of a column, for the first of them. -/
theorem chiLane_inverse (x0 x1 x2 x3 x4 : Word) :
    chiLane (chiLane x0 x1 x2) (chiLane x1 x2 x3)
      (chiLane (chiLane x2 x3 x4) (chiLane x3 x4 x0) (chiLane x4 x0 x1)) = x0 := by
  have bit : ∀ b0 b1 b2 b3 b4 : Bool,
      ((b0 ^^ (!b1 && b2)) ^^ (!(b1 ^^ (!b2 && b3)) &&
        ((b2 ^^ (!b3 && b4)) ^^ (!(b3 ^^ (!b4 && b0)) && (b4 ^^ (!b0 && b1)))))) = b0 := by decide
  apply BitVec.eq_of_getElem_eq
  intro k hk
  simp only [chiLane, BitVec.getElem_xor, BitVec.getElem_and, BitVec.getElem_not]
  exact bit _ _ _ _ _

theorem lane_chiStage_eq_chiLane (S : StateMatrix) (i j : Fin 5) :
    lane (chiStage S) i j = chiLane (lane S i j) (lane S (i + 1) j) (lane S (i + 2) j) := lane_chiStage S i j

/-- A lane before CHI, from the column it stands in after CHI. -/
theorem lane_eq_chiLane_chiStage (S : StateMatrix) (i j : Fin 5) :
    lane S i j = chiLane (lane (chiStage S) i j) (lane (chiStage S) (i + 1) j)
      (chiLane (lane (chiStage S) (i + 2) j) (lane (chiStage S) (i + 3) j) (lane (chiStage S) (i + 4) j)) := by
  have wraps : i + 1 + 1 = i + 2 ∧ i + 1 + 2 = i + 3 ∧ i + 2 + 1 = i + 3 ∧ i + 2 + 2 = i + 4 ∧ i + 3 + 1 = i + 4 ∧
      i + 3 + 2 = i ∧ i + 4 + 1 = i ∧ i + 4 + 2 = i + 1 := by revert i; decide
  simp only [lane_chiStage_eq_chiLane, wraps]
  exact (chiLane_inverse _ _ _ _ _).symm

theorem chiStage_injective : Function.Injective chiStage := by
  intro A B h
  refine matrix_ext fun i j => ?_
  rw [lane_eq_chiLane_chiStage A, h, ← lane_eq_chiLane_chiStage B]

theorem iotaStage_injective (rc : Fin 10 → Word) (r : Fin 10) : Function.Injective (iotaStage rc r) :=
  Function.LeftInverse.injective (iotaStage_iotaStage rc r)

/-! ### The round and the permutation lose nothing (R119) -/

theorem roundStage_injective (rc : Fin 10 → Word) (r : Fin 10) : Function.Injective (roundStage rc r) :=
  (iotaStage_injective rc r).comp
    (chiStage_injective.comp (piStage_injective.comp (rhoStage_injective.comp thetaStage_injective)))

theorem foldl_roundStage_injective (rc : Fin 10 → Word) (rounds : List (Fin 10)) :
    Function.Injective fun S => rounds.foldl (fun A r => roundStage rc r A) S := by
  induction rounds with
  | nil => exact Function.injective_id
  | cons r rest ih => exact ih.comp (roundStage_injective rc r)

/-- Settles O17: each stage of each round is injective, whatever the round's constant. -/
theorem permuteIsInjective : Obligations.PermuteIsInjective :=
  fun rc _ _ h => foldl_roundStage_injective rc (List.finRange 10) h

end Sys2Proof.Machine

/-! HashEngine (spec/41_hash.md): the padded stream, the absorption of a block, the sponge of HASH and the bytes it writes,
and what HASH depends on. -/

namespace Sys2Proof.Machine

open Sys2Proof.Config

/-! ### The padded length (R141) -/

theorem lt_paddedLength (P : Nat) : P < paddedLength P := by
  rw [paddedLength, blockCount]
  omega

theorem paddedLength_le_add_twenty (P : Nat) : paddedLength P ≤ P + 20 := by
  rw [paddedLength, blockCount]
  omega

theorem paddedLength_le_of_lt {P m : Nat} (hm : m % 20 = 0) (h : P < m) : paddedLength P ≤ m := by
  rw [paddedLength, blockCount]
  omega

/-! ### The padded stream (R142, R143) -/

theorem getElem?_eq_some_paddedByte (x : List Byte) {k : Nat} (h : k < x.length) : x[k]? = some (paddedByte x k) := by
  rw [paddedByte, if_pos h, List.getD_eq_getElem _ _ h, List.getElem?_eq_getElem h]

theorem paddedByte_marker (x : List Byte) : paddedByte x x.length = 0x80 := by
  rw [paddedByte, if_neg (lt_irrefl _), if_pos rfl]

theorem paddedByte_fill (x : List Byte) {k : Nat} (h : x.length < k) : paddedByte x k = 0 := by
  rw [paddedByte, if_neg h.not_gt, if_neg h.ne']

@[simp] theorem length_paddedStream (x : List Byte) : (paddedStream x).length = paddedLength x.length := by
  rw [paddedStream, List.length_map, List.length_range]

theorem getElem?_paddedStream_of_lt (x : List Byte) {k : Nat} (h : k < paddedLength x.length) :
    (paddedStream x)[k]? = some (paddedByte x k) := by
  rw [paddedStream, List.getElem?_map, List.getElem?_range h, Option.map_some]

/-- The padded stream, offset by offset. -/
theorem getElem?_paddedStream (x : List Byte) (k : Nat) :
    (paddedStream x)[k]? =
      if k < x.length then x[k]? else if k = x.length then some 0x80
      else if k < paddedLength x.length then some 0 else none := by
  have room := lt_paddedLength x.length
  rcases Nat.lt_trichotomy k x.length with input | rfl | past
  · rw [if_pos input, getElem?_paddedStream_of_lt x (input.trans room), getElem?_eq_some_paddedByte x input]
  · rw [if_neg (lt_irrefl _), if_pos rfl, getElem?_paddedStream_of_lt x room, paddedByte_marker]
  · rw [if_neg past.not_gt, if_neg past.ne']
    split_ifs with inside
    · rw [getElem?_paddedStream_of_lt x inside, paddedByte_fill x past]
    · exact List.getElem?_eq_none (by simpa using inside)

/-- Settles O19: the arithmetic of the padded length, and the stream offset by offset. -/
theorem paddingIsTheMarkerThenZeros : Obligations.PaddingIsTheMarkerThenZeros := by
  intro x
  have above := lt_paddedLength x.length
  have within := paddedLength_le_add_twenty x.length
  exact ⟨rfl, above, fun _ => paddedLength_le_of_lt, length_paddedStream x, getElem?_paddedStream x, by omega, by omega⟩

theorem getElem?_paddedStream_marker (x : List Byte) : (paddedStream x)[x.length]? = some 0x80 := by
  rw [getElem?_paddedStream, if_neg (lt_irrefl _), if_pos rfl]

/-- No marker stands past the end of the input: the marker is the last byte of the stream that is not zero. -/
theorem getElem?_paddedStream_ne_marker (x : List Byte) {k : Nat} (past : x.length < k) :
    (paddedStream x)[k]? ≠ some 0x80 := by
  rw [getElem?_paddedStream, if_neg past.not_gt, if_neg past.ne']
  split_ifs <;> decide

theorem length_le_of_paddedStream_eq {x y : List Byte} (h : paddedStream x = paddedStream y) : y.length ≤ x.length := by
  by_contra longer
  exact getElem?_paddedStream_ne_marker x (not_le.1 longer) (h ▸ getElem?_paddedStream_marker y)

/-- The input is the part of its padded stream before the marker. -/
theorem take_paddedStream (x : List Byte) : (paddedStream x).take x.length = x := by
  refine List.ext_getElem? fun k => ?_
  rw [List.getElem?_take]
  split_ifs with input
  · rw [getElem?_paddedStream, if_pos input]
  · exact (List.getElem?_eq_none (not_lt.1 input)).symm

/-- Settles O20: the last marker of the stream gives the length of the input, and the bytes before it are the input. -/
theorem paddingIsInjective : Obligations.PaddingIsInjective := by
  intro x y h
  have sameLength : x.length = y.length :=
    le_antisymm (length_le_of_paddedStream_eq h.symm) (length_le_of_paddedStream_eq h)
  rw [← take_paddedStream x, h, sameLength, take_paddedStream]

/-! ### Absorption (R144, R145) -/

theorem wordOfBytes_toNat (first second : Byte) : (wordOfBytes first second).toNat = 256 * first.toNat + second.toNat := by
  rw [wordOfBytes, toNat_append_eq_add]
  omega

theorem lane_absorbBlock (x : List Byte) (b : Nat) (S : StateMatrix) (i j : Fin 5) :
    lane (absorbBlock x b S) i j =
      if i.val < 2 then lane S i j ^^^ blockWord x b (5 * i.val + j.val) else lane S i j := lane_matrixOf _ i j

theorem mod5_val_of_lt {n : Nat} (h : n < 5) : (mod5 n).val = n := Nat.mod_eq_of_lt h

/-- Word `k` goes to the lane whose number is `k`. -/
theorem lane_absorbBlock_word (x : List Byte) (b : Nat) (S : StateMatrix) {k : Nat} (hk : k < 10) :
    lane (absorbBlock x b S) (mod5 (k / 5)) (mod5 (k % 5)) =
      lane S (mod5 (k / 5)) (mod5 (k % 5)) ^^^ blockWord x b k := by
  have row : (mod5 (k / 5)).val = k / 5 := mod5_val_of_lt (by omega)
  have column : (mod5 (k % 5)).val = k % 5 := mod5_val_of_lt (by omega)
  rw [lane_absorbBlock, row, column, if_pos (by omega), Nat.div_add_mod]

/-- Settles O21: a word is the sum of its two bytes, and `absorbBlock` is written lane by lane. -/
theorem absorptionXorsBigEndianWords : Obligations.AbsorptionXorsBigEndianWords := by
  refine fun x b S => ⟨fun _ _ => wordOfBytes_toNat _ _, fun _ hk => lane_absorbBlock_word x b S hk, fun i j hi => ?_⟩
  rw [lane_absorbBlock, if_neg (not_lt.2 hi)]

/-! ### The sponge (R146, R147) -/

/-- The matrix after the first `n` blocks of `x`, from the zero matrix (R146). -/
def absorbFirst (rc : Fin 10 → Word) (x : List Byte) (n : Nat) : StateMatrix :=
  (List.range n).foldl (fun A b => permuteStage rc (absorbBlock x b A)) StateMatrix.zero

theorem absorbFirst_zero (rc : Fin 10 → Word) (x : List Byte) : absorbFirst rc x 0 = StateMatrix.zero := rfl

theorem absorbFirst_succ (rc : Fin 10 → Word) (x : List Byte) (n : Nat) :
    absorbFirst rc x (n + 1) = permuteStage rc (absorbBlock x n (absorbFirst rc x n)) := by
  rw [absorbFirst, List.range_succ, List.foldl_append, List.foldl_cons, List.foldl_nil, absorbFirst]

/-- What the unit holds before does not matter: it is zeroed first. -/
theorem absorbAll_eq_absorbFirst (rc : Fin 10 → Word) (x : List Byte) (S : StateMatrix) :
    absorbAll rc x S = absorbFirst rc x (blockCount x.length) := rfl

theorem hashOn_lanes (rc : Fin 10 → Word) (S : StateMatrix) (x : List Byte) :
    (hashOn rc S x).lanes = permuteStage rc (absorbFirst rc x (blockCount x.length)) :=
  congrArg (permuteStage rc) (absorbAll_eq_absorbFirst rc x S)

/-! ### The bytes of the digest (R147, R148) -/

/-- Words go out high byte first: bytes `2·k` and `2·k + 1` are the two halves of word `k`. -/
theorem getD_flatMap_bytesOfWord (ws : List Word) (k : Nat) :
    ((ws.flatMap bytesOfWord).getD (2 * k) 0).toNat = (ws.getD k 0).toNat / 256 ∧
      ((ws.flatMap bytesOfWord).getD (2 * k + 1) 0).toNat = (ws.getD k 0).toNat % 256 := by
  induction ws generalizing k with
  | nil => simp
  | cons w ws ih =>
    cases k with
    | zero =>
      have hw : w.toNat < 65536 := w.isLt
      have high : (w.extractLsb' 8 8).toNat = w.toNat / 256 := by
        rw [BitVec.extractLsb'_toNat, Nat.shiftRight_eq_div_pow]
        omega
      exact ⟨high, BitVec.extractLsb'_toNat 0 8 w⟩
    | succ k => exact ih k

/-- The eight words of the hash of `x` (R147). -/
def hashWords (rc : Fin 10 → Word) (x : List Byte) : List Word :=
  digestWords (absorbFirst rc x (blockCount x.length)) (hashOn rc StateMatrix.zero x).lanes

theorem hashOf_eq_flatMap_hashWords (rc : Fin 10 → Word) (x : List Byte) :
    hashOf rc x = (hashWords rc x).flatMap bytesOfWord := rfl

theorem getD_hashWords_before (rc : Fin 10 → Word) (x : List Byte) (j : Fin 5) :
    (hashWords rc x).getD j.val 0 = lane (absorbFirst rc x (blockCount x.length)) 0 j := by
  fin_cases j <;> rfl

theorem getD_hashWords_after (rc : Fin 10 → Word) (x : List Byte) {j : Fin 5} (hj : j.val < 3) :
    (hashWords rc x).getD (5 + j.val) 0 = lane (hashOn rc StateMatrix.zero x).lanes 0 j := by
  obtain ⟨j, _⟩ := j
  interval_cases j <;> rfl

/-- The sixteen bytes that HASH writes, read back in order, are the hash of the message. -/
theorem map_byteAt_digest_hashCommand {p : Params} {s : State} (fits : ¬MessageTooLong p s) :
    (List.range 16).map (byteAt p (hashCommand p s) .digest) = hashOf p.rc (message p s) := by
  refine List.ext_getElem (by simp) fun k hk hk' => ?_
  have inside : k < 16 := by simpa using hk
  rw [List.getElem_map, List.getElem_range, byteAt_digest_hashCommand fits, if_pos inside, List.getD_eq_getElem _ _ hk']

/-- The bytes of DIGEST after HASH, word by word. -/
theorem byteAt_digest_hashCommand_word {p : Params} {s : State} (fits : ¬MessageTooLong p s) {k : Nat} (hk : k < 8) :
    (byteAt p (hashCommand p s) .digest (2 * k)).toNat = ((hashWords p.rc (message p s)).getD k 0).toNat / 256 ∧
      (byteAt p (hashCommand p s) .digest (2 * k + 1)).toNat =
        ((hashWords p.rc (message p s)).getD k 0).toNat % 256 := by
  rw [byteAt_digest_hashCommand fits, byteAt_digest_hashCommand fits, if_pos (by omega), if_pos (by omega),
    hashOf_eq_flatMap_hashWords]
  exact getD_flatMap_bytesOfWord _ k

/-! ### HASH (R140, R149, R152 to R154) -/

theorem exec_hash (s : State) : exec .hash s = .next (hashCommand Config.hw s) := rfl

@[simp] theorem message_length (p : Params) (s : State) : (message p s).length = s.msgLen.toNat := readBytes_length _ _ _

theorem message_eq_map_byteAt (p : Params) (s : State) :
    message p s = (List.range s.msgLen.toNat).map (byteAt p s .msg) := rfl

theorem hashCommand_dvalid {p : Params} {s : State} (fits : ¬MessageTooLong p s) : (hashCommand p s).dvalid = true := by
  rw [hashCommand_fits fits]

/-- Settles O22: the matrices are those after the first `b` blocks of the message. -/
theorem hashRunsTheSponge : Obligations.HashRunsTheSponge := by
  refine ⟨exec_hash, fun p s hlen => ?_⟩
  have fits := fits_of_msgLen_le hlen
  have blocks : s.msgLen.toNat / 20 + 1 = blockCount (message p s).length := by rw [message_length, blockCount]
  rw [← message_eq_map_byteAt, blocks]
  refine ⟨absorbFirst p.rc (message p s), fun i j => ?_, fun b _ => absorbFirst_succ p.rc _ b, ?_,
    hashCommand_dvalid fits, fun j => ?_, fun j hj => ?_, map_byteAt_digest_hashCommand fits⟩
  · rw [absorbFirst_zero, lane_zero]
  · rw [hashCommand_lanes fits, hashOn_lanes]
  · rw [← getD_hashWords_before]
    exact byteAt_digest_hashCommand_word fits (by omega)
  · rw [hashCommand_lanes fits, ← getD_hashWords_after p.rc _ hj, show 10 + 2 * j.val = 2 * (5 + j.val) by omega]
    exact byteAt_digest_hashCommand_word fits (by omega)

theorem message_congr {p : Params} {s s' : State} (hlen : s'.msgLen = s.msgLen)
    (hbytes : ∀ k < s.msgLen.toNat, byteAt p s' .msg k = byteAt p s .msg k) : message p s' = message p s := by
  rw [message_eq_map_byteAt, message_eq_map_byteAt, hlen]
  exact List.map_congr_left fun k hk => hbytes k (List.mem_range.1 hk)

/-- Settles O26: what HASH leaves in the lanes and in DIGEST is a function of the message. -/
theorem hashDependsOnlyOnTheMessage : Obligations.HashDependsOnlyOnTheMessage := by
  refine ⟨exec_hash, ?_⟩
  rintro p s s' _ _ hmax hlen hbytes rfl rfl
  have fits := fits_of_msgLen_le hmax
  have fits' : ¬MessageTooLong p s' := fits_of_msgLen_le (hlen ▸ hmax)
  have same := message_congr hlen hbytes
  refine ⟨?_, fun k hk => ?_⟩
  · rw [hashCommand_lanes fits', same, hashCommand_lanes fits]
  · rw [byteAt_digest_hashCommand fits', if_pos hk, same, byteAt_digest_hashCommand fits, if_pos hk]

/-- Settles O24: `hashCommand` raises with the word of HASH, which is 0x1000. -/
theorem hashTooLongOnlyRaises : Obligations.HashTooLongOnlyRaises := by
  refine ⟨exec_hash, fun p s tooLong => ?_⟩
  have word : encode .hash = 0x1000 := by decide
  rw [hashCommand_tooLong tooLong, word]
  exact onlyRaises_raise _ _ s

end Sys2Proof.Machine

/-! Enumerator (spec/42_enumerator.md): E.INIT, the odometer and its count in base N, the tuple and candidate that E.NEXT
emits, and the whole enumeration. -/

namespace Sys2Proof.Machine

open Sys2Proof.Config

/-! ### The commands (R94) -/

theorem exec_eInit (s : State) : exec .eInit s = .next (restartEnumerator s) := rfl

theorem exec_eNext (s : State) : exec .eNext s = .next (nextTuple Config.hw s) := rfl

theorem exec_search (s : State) : exec .search s = .next (searchCommand Config.hw s) := rfl

/-- Settles O27: a restart writes ESTATE, IDX and CAND alone. -/
theorem eInitRestartsTheEnumerator : Obligations.EInitRestartsTheEnumerator :=
  ⟨by decide, fun s => ⟨_, exec_eInit s, rfl, rfl, rfl, rfl, rfl, ⟨rfl, rfl⟩, ⟨rfl, rfl, rfl⟩, ⟨rfl, rfl⟩, ⟨rfl, rfl⟩,
    keepsBytes_restartEnumerator s⟩⟩

/-- Settles O32: both commands make the check of R171 first and raise with their own word. -/
theorem badTupleParametersOnlyRaise : Obligations.BadTupleParametersOnlyRaise := by
  refine ⟨fun s => ⟨exec_eNext s, exec_search s⟩, fun p s bad => ?_⟩
  have nextWord : encode .eNext = 0x2100 := by decide
  have searchWord : encode .search = 0x3000 := by decide
  rw [nextTuple_bad bad, nextWord, searchCommand_bad bad, searchWord]
  exact ⟨onlyRaises_raise _ _ s, onlyRaises_raise _ _ s⟩

/-! ### The odometer (R173) -/

/-- What becomes of slot `q`, which holds `d`, when slot `k` is the least that can be incremented. -/
def slotAfter (k q d : Nat) : Nat := if q < k then 0 else if q = k then d + 1 else d

theorem slotAfter_before {k q : Nat} (h : q < k) (d : Nat) : slotAfter k q d = 0 := if_pos h

theorem slotAfter_at (k d : Nat) : slotAfter k k d = d + 1 := by rw [slotAfter, if_neg (lt_irrefl k), if_pos rfl]

theorem slotAfter_past {k q : Nat} (h : k < q) (d : Nat) : slotAfter k q d = d := by
  rw [slotAfter, if_neg h.not_gt, if_neg h.ne']

/-- The list that `advance` builds, slot by slot. -/
theorem increment_eq_mapIdx {k : Nat} {t : List Nat} (hk : k < t.length) :
    List.replicate k 0 ++ (t.getD k 0 + 1) :: t.drop (k + 1) = t.mapIdx (slotAfter k) := by
  refine List.ext_getElem (by simp; omega) fun q _ _ => ?_
  rw [List.getElem_mapIdx, List.getElem_append]
  rcases Nat.lt_trichotomy q k with before | rfl | past
  · simp [before, slotAfter_before]
  · simp [slotAfter_at, hk]
  · obtain ⟨d, rfl⟩ := Nat.exists_eq_add_of_lt past
    have offset : k + d + 1 - k = d + 1 := by omega
    simp [slotAfter_past past, past.not_gt, offset, Nat.add_right_comm k 1 d]

/-- The least slot that can be incremented decides what the odometer does. -/
theorem advance_of_least {N k : Nat} {t : List Nat} (hk : k < t.length) (below : t[k] + 1 < N)
    (before : ∀ q (hq : q < k), N ≤ t[q] + 1) : advance N t = some (t.mapIdx (slotAfter k)) := by
  have least : t.findIdx? (fun d => d + 1 < N) = some k :=
    List.findIdx?_eq_some_iff_getElem.2 ⟨hk, decide_eq_true below, fun q hq => by simpa using before q hq⟩
  rw [← increment_eq_mapIdx hk, advance, least]

theorem advance_eq_none {N : Nat} {t : List Nat} (h : ∀ d ∈ t, N ≤ d + 1) : advance N t = none := by
  have noSlot : t.findIdx? (fun d => d + 1 < N) = none :=
    List.findIdx?_eq_none_iff.2 fun d hd => decide_eq_false (not_lt.2 (h d hd))
  rw [advance, noSlot]

/-! ### Tuple numbers (R176) -/

@[simp] theorem tupleNumber_length (N L t : Nat) : (tupleNumber N L t).length = L := by
  simp [tupleNumber]

/-- Slot 0 is the last digit in base N, and the slots after it are the digits of the quotient. -/
theorem tupleNumber_succ (N L t : Nat) : tupleNumber N (L + 1) t = t % N :: tupleNumber N L (t / N) := by
  simp [tupleNumber, List.range_succ_eq_map, Nat.pow_succ', Nat.div_div_eq_div_mul, Function.comp_def]

theorem tupleNumber_zero (N L : Nat) : tupleNumber N L 0 = List.replicate L 0 := by
  simp [tupleNumber, List.map_const']

theorem getElem_tupleNumber {N L t k : Nat} (hk : k < (tupleNumber N L t).length) :
    (tupleNumber N L t)[k] = t / N ^ k % N := by
  simp [tupleNumber]

theorem lt_of_mem_tupleNumber {N L t d : Nat} (hN : 0 < N) (hd : d ∈ tupleNumber N L t) : d < N := by
  obtain ⟨k, -, rfl⟩ := List.mem_map.1 hd
  exact Nat.mod_lt _ hN

/-- Counting up without a carry out of the last digit. -/
theorem succ_divMod_of_lt {N t : Nat} (h : t % N + 1 < N) : (t + 1) / N = t / N ∧ (t + 1) % N = t % N + 1 := by
  have hdigits := Nat.div_add_mod t N
  exact (Nat.div_mod_unique (by omega)).2 ⟨by omega, h⟩

/-- Counting up with a carry out of the last digit. -/
theorem succ_divMod_of_carry {N t : Nat} (hN : 0 < N) (h : ¬t % N + 1 < N) :
    (t + 1) / N = t / N + 1 ∧ (t + 1) % N = 0 := by
  have hdigits := Nat.div_add_mod t N
  have hmod := Nat.mod_lt t hN
  exact (Nat.div_mod_unique hN).2 ⟨by rw [Nat.mul_add]; omega, hN⟩

/-- The odometer counts in base N. -/
theorem advance_tupleNumber {N L t : Nat} (hN : 0 < N) (ht : t < N ^ L) :
    advance N (tupleNumber N L t) = if t + 1 < N ^ L then some (tupleNumber N L (t + 1)) else none := by
  induction L generalizing t with
  | zero =>
    rw [Nat.pow_zero] at ht ⊢
    rw [if_neg (by omega)]
    rfl
  | succ L ih =>
    have hquot : t / N < N ^ L := Nat.div_lt_of_lt_mul (by rwa [← Nat.pow_succ'])
    have hlast : t + 1 < N ^ (L + 1) ↔ (t + 1) / N < N ^ L := by rw [Nat.div_lt_iff_lt_mul hN, Nat.pow_succ]
    rw [tupleNumber_succ, advance_cons, tupleNumber_succ]
    by_cases hd : t % N + 1 < N
    · obtain ⟨hdiv, hmod⟩ := succ_divMod_of_lt hd
      rw [if_pos hd, if_pos (hlast.2 (hdiv ▸ hquot)), hdiv, hmod]
    · obtain ⟨hdiv, hmod⟩ := succ_divMod_of_carry hN hd
      rw [if_neg hd, ih hquot, hdiv, hmod]
      simp only [hlast, hdiv]
      split_ifs <;> rfl

/-- Settles O33, by induction on the number of slots. -/
theorem advanceCountsInBaseN : Obligations.AdvanceCountsInBaseN := fun _ _ _ hN ht => advance_tupleNumber hN ht

/-- The slots of tuple number `t` are the digits of Mathlib's equivalence between `N ^ L` and the functions to `N`. -/
theorem tupleNumber_eq_ofFn {N L : Nat} (t : Fin (N ^ L)) :
    tupleNumber N L t = List.ofFn fun k => (finFunctionFinEquiv.symm t k : Nat) := by
  refine List.ext_getElem (by simp) fun k _ _ => ?_
  simp [tupleNumber, finFunctionFinEquiv_symm_apply_val]

/-- Tuples of different numbers differ. -/
theorem tupleNumber_injOn {N L t t' : Nat} (ht : t < N ^ L) (ht' : t' < N ^ L)
    (h : tupleNumber N L t = tupleNumber N L t') : t = t' := by
  have digits := (tupleNumber_eq_ofFn ⟨t, ht⟩).symm.trans (h.trans (tupleNumber_eq_ofFn ⟨t', ht'⟩))
  have same : finFunctionFinEquiv.symm ⟨t, ht⟩ = finFunctionFinEquiv.symm ⟨t', ht'⟩ :=
    funext fun k => Fin.ext (congrFun (List.ofFn_injective digits) k)
  exact Fin.mk.inj (finFunctionFinEquiv.symm.injective same)

/-- Every tuple has a number. -/
theorem exists_tupleNumber_eq {N L : Nat} {u : List Nat} (hlen : u.length = L) (hlt : ∀ d ∈ u, d < N) :
    ∃ t < N ^ L, u = tupleNumber N L t := by
  subst hlen
  refine ⟨finFunctionFinEquiv fun k => (⟨u[k], hlt _ (List.getElem_mem _)⟩ : Fin N), Fin.is_lt _, ?_⟩
  rw [tupleNumber_eq_ofFn, Equiv.symm_apply_apply]
  exact List.ofFn_getElem.symm

/-! ### The tuple in IDX and its candidate in CAND (R39, R40, R175) -/

theorem byteAt_idx_emit (p : Params) (s : State) {t : List Nat} {k : Nat} (hk : k < t.length) :
    byteAt p (emit p t s) .idx k = BitVec.ofNat 8 t[k] := by
  rw [byteAt, spaceOf_emit, if_pos rfl, readByte_writeBytes]
  simp [hk]

theorem byteAt_cand_emit (p : Params) (s : State) {t : List Nat} {k : Nat} (hk : k < t.length) :
    byteAt p (emit p t s) .cand k = byteAt p s .alpha t[k] := by
  rw [byteAt, spaceOf_emit, if_neg (by decide), if_pos rfl, readByte_writeBytes]
  simp [hk, candidateOf, symbol, byteAt, spaceOf]

/-- A slot that fits a byte reads as its number. -/
theorem toNat_byteAt_idx_emit (p : Params) (s : State) {t : List Nat} {k : Nat} (hk : k < t.length) (fits : t[k] < 256) :
    (byteAt p (emit p t s) .idx k).toNat = t[k] := by
  rw [byteAt_idx_emit p s hk, BitVec.toNat_ofNat]
  exact Nat.mod_eq_of_lt fits

theorem getElem_currentTuple {p : Params} {s : State} {k : Nat} (hk : k < (currentTuple p s).length) :
    (currentTuple p s)[k] = (byteAt p s .idx k).toNat := by
  simp [currentTuple, readBytes, byteAt, spaceOf]

/-- The enumerator stands at the tuple it has emitted. -/
theorem currentTuple_emit (p : Params) {s : State} {t : List Nat} (hlen : t.length = tupleLength s)
    (fits : ∀ d ∈ t, d < 256) : currentTuple p (emit p t s) = t := by
  refine List.ext_getElem ((currentTuple_length p _).trans hlen.symm) fun k _ hk => ?_
  rw [getElem_currentTuple, toNat_byteAt_idx_emit p s hk (fits _ (List.getElem_mem hk))]

theorem alphabetSize_le_of_good {p : Params} {s : State} (good : ¬TupleParameterBad p s) : alphabetSize s ≤ 256 :=
  not_lt.1 fun big => good (.inl big)

/-! ### E.NEXT, state by state (R173, R178) -/

theorem alphabetSize_eq_zero_iff {s : State} : alphabetSize s = 0 ↔ s.alphaN = 0 :=
  BitVec.toNat_inj (y := 0#16)

/-- Settles O28: the first emission is the tuple of zeros, and there is none over an empty alphabet. -/
theorem firstNextEmitsTheZeroTuple : Obligations.FirstNextEmitsTheZeroTuple := by
  refine ⟨exec_eNext, ?_⟩
  rintro p s _ good he rfl
  split_ifs with hN
  · rw [nextTuple_empty good he (alphabetSize_eq_zero_iff.2 hN)]
    rfl
  · rw [nextTuple_first good he (mt alphabetSize_eq_zero_iff.1 hN)]
    refine ⟨rfl, fun k hk => ?_⟩
    have hk' : k < (List.replicate (tupleLength s) 0).length := by rwa [List.length_replicate]
    rw [byteAt_idx_emit p s hk', byteAt_cand_emit p s hk', List.getElem_replicate]
    exact ⟨rfl, rfl⟩

/-- E.NEXT where slot `k` is the least that can be incremented. -/
theorem nextTuple_least {p : Params} {s : State} {k : Nat} (good : ¬TupleParameterBad p s) (he : s.estate = .atTuple)
    (hk : k < tupleLength s) (below : (byteAt p s .idx k).toNat + 1 < alphabetSize s)
    (before : ∀ q < k, alphabetSize s ≤ (byteAt p s .idx q).toNat + 1) :
    nextTuple p s = emit p ((currentTuple p s).mapIdx (slotAfter k)) s := by
  refine nextTuple_advance good he (advance_of_least (by rwa [currentTuple_length]) ?_ fun q hq => ?_)
  · rwa [getElem_currentTuple]
  · rw [getElem_currentTuple]
    exact before q hq

theorem slotAfter_byteAt_lt {p : Params} {s : State} {k : Nat} (good : ¬TupleParameterBad p s)
    (below : (byteAt p s .idx k).toNat + 1 < alphabetSize s) (q : Nat) :
    slotAfter k q (byteAt p s .idx q).toNat < 256 := by
  have hN := alphabetSize_le_of_good good
  rcases Nat.lt_trichotomy q k with hq | rfl | hq
  · rw [slotAfter_before hq]
    decide
  · rw [slotAfter_at]
    omega
  · rw [slotAfter_past hq]
    exact BitVec.isLt _

/-- Settles O29: the emitted tuple, slot by slot, and what IDX and CAND hold of it. -/
theorem nextAdvancesTheLeastSlot : Obligations.NextAdvancesTheLeastSlot := by
  refine ⟨exec_eNext, ?_⟩
  rintro p s _ k good he hk below before rfl
  rw [nextTuple_least good he hk below before]
  have inTuple {q : Nat} (hq : q < tupleLength s) : q < ((currentTuple p s).mapIdx (slotAfter k)).length := by
    rwa [List.length_mapIdx, currentTuple_length]
  have slot {q : Nat} (hq : q < tupleLength s) :
      ((currentTuple p s).mapIdx (slotAfter k))[q]'(inTuple hq) = slotAfter k q (byteAt p s .idx q).toNat := by
    rw [List.getElem_mapIdx, getElem_currentTuple]
  have idx {q : Nat} (hq : q < tupleLength s) :
      (byteAt p (emit p ((currentTuple p s).mapIdx (slotAfter k)) s) .idx q).toNat =
        slotAfter k q (byteAt p s .idx q).toNat := by
    rw [toNat_byteAt_idx_emit p s (inTuple hq) (by rw [slot hq]; exact slotAfter_byteAt_lt good below q), slot hq]
  refine ⟨rfl, fun q hq => ?_, ?_, fun q hkq hq => ?_, fun q hq => ?_⟩
  · exact BitVec.eq_of_toNat_eq ((idx (hq.trans hk)).trans (slotAfter_before hq _))
  · exact (idx hk).trans (slotAfter_at k _)
  · exact BitVec.eq_of_toNat_eq ((idx hq).trans (slotAfter_past hkq _))
  · rw [byteAt_cand_emit p s (inTuple hq), idx hq, slot hq]

/-- Settles O30: no slot below N − 1 leaves the odometer nothing, and Exhausted is kept. -/
theorem nextAfterTheLastTuple : Obligations.NextAfterTheLastTuple := by
  refine ⟨exec_eNext, fun p s good he last => ?_, fun p s good he => nextTuple_exhausted good he⟩
  have noNext : advance (alphabetSize s) (currentTuple p s) = none := by
    refine advance_eq_none fun d hd => ?_
    obtain ⟨q, hq, rfl⟩ := List.mem_iff_getElem.1 hd
    rw [getElem_currentTuple]
    exact last q (by rwa [currentTuple_length] at hq)
  rw [nextTuple_last good he noNext]
  rfl

/-! ### The whole enumeration (R176, R177) -/

/-- `r` has the alphabet and the tuple length of `s`. -/
def SameTupleSpace (s r : State) : Prop := r.alphaN = s.alphaN ∧ r.tupleL = s.tupleL ∧ r.alpha = s.alpha

theorem SameTupleSpace.alphabetSize_eq {s r : State} (h : SameTupleSpace s r) : alphabetSize r = alphabetSize s :=
  congrArg BitVec.toNat h.1

theorem SameTupleSpace.tupleLength_eq {s r : State} (h : SameTupleSpace s r) : tupleLength r = tupleLength s :=
  congrArg BitVec.toNat h.2.1

theorem SameTupleSpace.byteAt_alpha {s r : State} (h : SameTupleSpace s r) (p : Params) (k : Nat) :
    byteAt p r .alpha k = byteAt p s .alpha k :=
  congrArg (fun m => readByte p m k) h.2.2

theorem SameTupleSpace.good {p : Params} {s r : State} (h : SameTupleSpace s r) (good : ¬TupleParameterBad p s) :
    ¬TupleParameterBad p r := by
  rwa [TupleParameterBad, h.alphabetSize_eq, h.tupleLength_eq]

/-- Emitting a tuple keeps the alphabet and the tuple length (R66). -/
theorem SameTupleSpace.emit {s r : State} (h : SameTupleSpace s r) (p : Params) (t : List Nat) :
    SameTupleSpace s (emit p t r) := h

/-- The slots of a tuple of the alphabet fit a byte (R171). -/
theorem lt_256_of_mem_tupleNumber {p : Params} {s : State} (good : ¬TupleParameterBad p s) (hN : alphabetSize s ≠ 0)
    {t : Nat} : ∀ d ∈ tupleNumber (alphabetSize s) (tupleLength s) t, d < 256 := fun _ hd =>
  (lt_of_mem_tupleNumber (Nat.pos_of_ne_zero hN) hd).trans_le (alphabetSize_le_of_good good)

/-- E.NEXT at tuple number t emits tuple number t + 1, if there is one. -/
theorem nextTuple_emit_tupleNumber {p : Params} {s : State} (good : ¬TupleParameterBad p s) (hN : alphabetSize s ≠ 0)
    {t : Nat} (ht : t < alphabetSize s ^ tupleLength s) :
    nextTuple p (emit p (tupleNumber (alphabetSize s) (tupleLength s) t) s) =
      if t + 1 < alphabetSize s ^ tupleLength s then
        emit p (tupleNumber (alphabetSize s) (tupleLength s) (t + 1))
          (emit p (tupleNumber (alphabetSize s) (tupleLength s) t) s)
      else exhaustTuples (emit p (tupleNumber (alphabetSize s) (tupleLength s) t) s) := by
  have next := advance_tupleNumber (Nat.pos_of_ne_zero hN) ht
  rw [← currentTuple_emit p (tupleNumber_length _ _ t) (lt_256_of_mem_tupleNumber good hN)] at next
  split_ifs with more
  · rw [if_pos more] at next
    exact nextTuple_advance (s := emit p _ s) good rfl next
  · rw [if_neg more] at next
    exact nextTuple_last (s := emit p _ s) good rfl next

/-- After t + 1 E.NEXT the enumerator has just emitted tuple number t. -/
theorem iterate_nextTuple {p : Params} {s : State} (good : ¬TupleParameterBad p s) (hN : alphabetSize s ≠ 0)
    (he : s.estate = .notStarted) {t : Nat} (ht : t < alphabetSize s ^ tupleLength s) :
    ∃ r, SameTupleSpace s r ∧ (nextTuple p)^[t + 1] s = emit p (tupleNumber (alphabetSize s) (tupleLength s) t) r := by
  induction t with
  | zero => exact ⟨s, ⟨rfl, rfl, rfl⟩, by rw [tupleNumber_zero]; exact nextTuple_first good he hN⟩
  | succ t ih =>
    obtain ⟨r, same, hr⟩ := ih (by omega)
    refine ⟨_, same.emit p (tupleNumber (alphabetSize s) (tupleLength s) t), ?_⟩
    rw [← same.alphabetSize_eq] at hN
    rw [← same.alphabetSize_eq, ← same.tupleLength_eq] at ht hr ⊢
    rw [Function.iterate_succ_apply', hr, nextTuple_emit_tupleNumber (same.good good) hN (by omega), if_pos ht]

/-- After the last tuple, one more E.NEXT gives Exhausted. -/
theorem iterate_nextTuple_exhausted {p : Params} {s : State} (good : ¬TupleParameterBad p s) (hN : alphabetSize s ≠ 0)
    (he : s.estate = .notStarted) :
    ((nextTuple p)^[alphabetSize s ^ tupleLength s + 1] s).estate = .exhausted := by
  have count : 0 < alphabetSize s ^ tupleLength s := Nat.pow_pos (Nat.pos_of_ne_zero hN)
  obtain ⟨last, hlast⟩ := Nat.exists_eq_add_of_lt count
  rw [Nat.zero_add] at hlast
  obtain ⟨r, same, hr⟩ := iterate_nextTuple good hN he (t := last) (by omega)
  rw [hlast, Function.iterate_succ_apply', hr]
  rw [← same.alphabetSize_eq] at hN
  rw [← same.alphabetSize_eq, ← same.tupleLength_eq] at hlast ⊢
  rw [nextTuple_emit_tupleNumber (same.good good) hN (by omega), if_neg (by omega)]
  rfl

/-- What IDX and CAND hold at tuple number t. -/
theorem byteAt_emit_tupleNumber {p : Params} {s r : State} (same : SameTupleSpace s r) (good : ¬TupleParameterBad p s)
    (hN : alphabetSize s ≠ 0) (t : Nat) {k : Nat} (hk : k < tupleLength s) :
    (byteAt p (emit p (tupleNumber (alphabetSize s) (tupleLength s) t) r) .idx k).toNat =
        t / alphabetSize s ^ k % alphabetSize s ∧
      byteAt p (emit p (tupleNumber (alphabetSize s) (tupleLength s) t) r) .cand k =
        byteAt p s .alpha (t / alphabetSize s ^ k % alphabetSize s) := by
  have hk' : k < (tupleNumber (alphabetSize s) (tupleLength s) t).length := by rwa [tupleNumber_length]
  have fits := lt_256_of_mem_tupleNumber good hN _ (List.getElem_mem hk')
  rw [toNat_byteAt_idx_emit p r hk' fits, byteAt_cand_emit p r hk', getElem_tupleNumber, same.byteAt_alpha]
  exact ⟨rfl, rfl⟩

/-- Settles O34: the iterates of E.NEXT stand at the tuple numbers in turn, and the numbers below N^L are those of all
tuples, each once. -/
theorem enumerationIsComplete : Obligations.EnumerationIsComplete := by
  intro p s good nonempty he
  have hN := mt alphabetSize_eq_zero_iff.1 nonempty
  refine ⟨fun t ht => ?_, iterate_nextTuple_exhausted good hN he, fun _ _ => tupleNumber_injOn,
    fun _ => exists_tupleNumber_eq⟩
  obtain ⟨r, same, hr⟩ := iterate_nextTuple good hN he ht
  rw [hr]
  exact ⟨rfl, fun k hk => byteAt_emit_tupleNumber same good hN t hk⟩

end Sys2Proof.Machine

/-! SearchEngine (spec/43_search.md): what a worker's step can do, the invariant of the worker machine, the end of every run
of it, the relation of R191 between a run's start and its result, and what SEARCH answers. -/

namespace Sys2Proof.Machine

open Sys2Proof.Config

/-! ### When a step is enabled (R195 to R197) -/

/-- Nothing is left to hand out: a match was found, or every tuple is claimed (R195, R197). -/
def SearchDone (e : SearchInput) (ws : Workers) : Prop :=
  ws.found = true ∨ ∀ t ∈ allTuples e.size e.length, t ∈ ws.claimed

theorem stepEnabled_claim {e : SearchInput} {ws : Workers} {w : Nat} {t : List Nat} :
    stepEnabled e ws (.claim w t) = true ↔ ∃ u, ws.units[w]? = some u ∧ u.halted = false ∧ u.cur = none ∧
      ws.found = false ∧ t ∈ allTuples e.size e.length ∧ t ∉ ws.claimed := by
  cases hu : ws.units[w]? <;> simp [stepEnabled, hu, and_assoc]

theorem stepEnabled_eval {e : SearchInput} {ws : Workers} {w : Nat} :
    stepEnabled e ws (.eval w) = true ↔ ∃ u t, ws.units[w]? = some u ∧ u.cur = some t := by
  cases hu : ws.units[w]? <;> simp [stepEnabled, hu, Option.isSome_iff_exists]

theorem stepEnabled_drop {e : SearchInput} {ws : Workers} {w : Nat} :
    stepEnabled e ws (.drop w) = true ↔ ∃ u t, ws.units[w]? = some u ∧ u.cur = some t ∧ ws.found = true := by
  cases hu : ws.units[w]? <;> simp [stepEnabled, hu, Option.isSome_iff_exists]

theorem stepEnabled_halt {e : SearchInput} {ws : Workers} {w : Nat} :
    stepEnabled e ws (.halt w) = true ↔
      ∃ u, ws.units[w]? = some u ∧ u.halted = false ∧ u.cur = none ∧ SearchDone e ws := by
  cases hu : ws.units[w]? <;> simp [stepEnabled, hu, SearchDone, and_assoc]

/-! ### What an enabled step does (R195 to R197) -/

/-- Each enabled step of worker `w`, which stands at `u`, and the state it ends in. -/
inductive StepEffect (e : SearchInput) (ws : Workers) : WorkerStep → Workers → Prop
  | claim {w : Nat} {u : Worker} {t : List Nat} (hu : ws.units[w]? = some u) (awake : u.halted = false)
      (free : u.cur = none) (ht : t ∈ allTuples e.size e.length) (fresh : t ∉ ws.claimed) :
      StepEffect e ws (.claim w t)
        { onWorker w (fun v => { v with cur := some t }) ws with claimed := t :: ws.claimed }
  | eval {w : Nat} {u : Worker} {t : List Nat} (hu : ws.units[w]? = some u) (hcur : u.cur = some t) :
      StepEffect e ws (.eval w) (evalStep e w u t ws)
  | drop {w : Nat} {u : Worker} {t : List Nat} (hu : ws.units[w]? = some u) (hcur : u.cur = some t)
      (hfound : ws.found = true) : StepEffect e ws (.drop w) (onWorker w (fun v => { v with cur := none }) ws)
  | halt {w : Nat} {u : Worker} (hu : ws.units[w]? = some u) (awake : u.halted = false) (free : u.cur = none)
      (done : SearchDone e ws) : StepEffect e ws (.halt w) (onWorker w (fun v => { v with halted := true }) ws)

theorem applyStep_eval {e : SearchInput} {ws : Workers} {w : Nat} {u : Worker} {t : List Nat}
    (hu : ws.units[w]? = some u) (hcur : u.cur = some t) : applyStep e ws (.eval w) = evalStep e w u t ws := by
  simp [applyStep, hu, hcur]

theorem applyStep_effect {e : SearchInput} {ws : Workers} {st : WorkerStep} (h : stepEnabled e ws st = true) :
    StepEffect e ws st (applyStep e ws st) := by
  cases st with
  | claim w t =>
    obtain ⟨u, hu, awake, free, -, ht, fresh⟩ := stepEnabled_claim.1 h
    exact .claim hu awake free ht fresh
  | eval w =>
    obtain ⟨u, t, hu, hcur⟩ := stepEnabled_eval.1 h
    rw [applyStep_eval hu hcur]
    exact .eval hu hcur
  | drop w =>
    obtain ⟨u, t, hu, hcur, hfound⟩ := stepEnabled_drop.1 h
    exact .drop hu hcur hfound
  | halt w =>
    obtain ⟨u, hu, awake, free, done⟩ := stepEnabled_halt.1 h
    exact .halt hu awake free done

/-- A property that each effect keeps holds at the end of a run. -/
theorem runWorkers_keeps {e : SearchInput} (P : Workers → Prop)
    (hstep : ∀ ws st ws', P ws → StepEffect e ws st ws' → P ws') (sched : Nat → Nat) (fuel i : Nat) {ws : Workers}
    (h : P ws) : P (runWorkers e sched fuel i ws) :=
  runWorkers_induction P (fun _ _ hP hen => hstep _ _ _ hP (applyStep_effect hen)) fuel i ws h

@[simp] theorem evalStep_claimed (e : SearchInput) (w : Nat) (u : Worker) (t : List Nat) (ws : Workers) :
    (evalStep e w u t ws).claimed = ws.claimed := by
  simp only [evalStep]
  split_ifs <;> rfl

theorem evalStep_found (e : SearchInput) (w : Nat) (u : Worker) (t : List Nat) (ws : Workers) :
    (evalStep e w u t ws).found = if hashOf e.rc (candidateOf e.sym t) = e.target then true else ws.found :=
  apply_ite Workers.found _ _ _

/-- Exactly the enabled steps are offered to the schedule. -/
theorem mem_enabledSteps {e : SearchInput} {ws : Workers} {st : WorkerStep} :
    st ∈ enabledSteps e ws ↔ stepEnabled e ws st = true := by
  refine ⟨fun h => (List.mem_filter.1 h).2, fun h => List.mem_filter.2 ⟨List.mem_flatMap.2 ?_, h⟩⟩
  have inRange {w : Nat} {u : Worker} (hu : ws.units[w]? = some u) : w ∈ List.range ws.units.length :=
    List.mem_range.2 (List.getElem?_eq_some_iff.1 hu).1
  have effect := applyStep_effect h
  generalize applyStep e ws st = ws' at effect
  cases effect with
  | claim hu _ _ ht _ => exact ⟨_, inRange hu, List.mem_append_left _ (List.mem_map_of_mem ht)⟩
  | eval hu | drop hu | halt hu => exact ⟨_, inRange hu, by simp [stepsOfWorker]⟩

/-! ### Who holds which tuple -/

/-- Where `mem_modify` tells that a new member comes from an old one, the old one here is known to stand at `n`. -/
theorem mem_modify_at {α : Type} {f : α → α} {n : Nat} {l : List α} {x : α} (h : x ∈ l.modify n f) :
    x ∈ l ∨ ∃ y, l[n]? = some y ∧ x = f y := by
  obtain ⟨k, hk⟩ := List.mem_iff_getElem?.1 h
  rw [List.getElem?_modify] at hk
  obtain ⟨y, hy, rfl⟩ := Option.map_eq_some_iff.1 hk
  split_ifs with hn
  · exact .inr ⟨y, hn ▸ hy, rfl⟩
  · exact .inl (List.mem_of_getElem? hy)

/-- The tuples held after worker `w` has become `f` of what it was. -/
theorem cur_modify (units : List Worker) (w v : Nat) (f : Worker → Worker) :
    ((units.modify w f)[v]?).bind Worker.cur =
      if w = v then units[w]?.bind (Worker.cur ∘ f) else units[v]?.bind Worker.cur := by
  rw [List.getElem?_modify]
  split_ifs with h
  · subst h
    cases units[w]? <;> rfl
  · cases units[v]? <;> rfl

theorem held_iff {units : List Worker} {t : List Nat} :
    (∃ u ∈ units, u.cur = some t) ↔ ∃ v : Nat, units[v]?.bind Worker.cur = some t := by
  simp only [Option.bind_eq_some_iff, List.mem_iff_getElem?]
  constructor
  · rintro ⟨u, ⟨v, hv⟩, ht⟩
    exact ⟨v, u, hv, ht⟩
  · rintro ⟨v, u, hv, ht⟩
    exact ⟨u, ⟨v, hv⟩, ht⟩

/-! ### The invariant of the worker machine (R192 to R197) -/

theorem startWorkers_unit {p : Params} {n : Nat} {u : Worker} (hu : u ∈ (startWorkers p n).units) :
    u.cur = none ∧ u.halted = false := by
  obtain ⟨w, -, rfl⟩ := List.mem_map.1 hu
  exact ⟨rfl, rfl⟩

theorem workersInv_startWorkers (p : Params) (n : Nat) (e : SearchInput) : WorkersInv e (startWorkers p n) := by
  have idle : ¬∃ t, ∃ u ∈ (startWorkers p n).units, u.cur = some t := by
    rintro ⟨t, u, hu, ht⟩
    exact nomatch (startWorkers_unit hu).1.symm.trans ht
  exact ⟨by simp [startWorkers], List.nodup_nil, nofun, fun u hu t ht => absurd ⟨t, u, hu, ht⟩ idle,
    fun v w t hv _ => absurd ⟨t, held_iff.2 ⟨v, hv⟩⟩ idle, nofun, fun _ => nofun⟩

theorem WorkersInv.mem_claimed {e : SearchInput} {ws : Workers} (h : WorkersInv e ws) {v : Nat} {t : List Nat}
    (hv : ws.units[v]?.bind Worker.cur = some t) : t ∈ ws.claimed := by
  obtain ⟨-, -, -, hheld, -⟩ := h
  obtain ⟨u, hu, ht⟩ := held_iff.2 ⟨v, hv⟩
  exact (hheld u hu t ht).1

/-- A claim hands a new tuple of the space to a worker that holds none (R195). -/
theorem WorkersInv.claim {e : SearchInput} {ws : Workers} (h : WorkersInv e ws) {w : Nat} {u : Worker} {t : List Nat}
    (hu : ws.units[w]? = some u) (awake : u.halted = false) (free : u.cur = none)
    (ht : t ∈ allTuples e.size e.length) (fresh : t ∉ ws.claimed) :
    WorkersInv e { onWorker w (fun v => { v with cur := some t }) ws with claimed := t :: ws.claimed } := by
  have old {v : Nat} {t' : List Nat} (hv : ws.units[v]?.bind Worker.cur = some t') : t' ∈ ws.claimed := h.mem_claimed hv
  obtain ⟨hflag, hnodup, htuple, hheld, hone, hslot, hopen⟩ := h
  have now (v : Nat) : ((ws.units.modify w fun v => { v with cur := some t })[v]?).bind Worker.cur =
      if w = v then some t else ws.units[v]?.bind Worker.cur := by
    rw [cur_modify, hu]
    rfl
  refine ⟨hflag, List.nodup_cons.2 ⟨fresh, hnodup⟩, List.forall_mem_cons.2 ⟨mem_allTuples.1 ht, htuple⟩,
    fun x hx t' ht' => ?_, fun v v' t' hv hv' => ?_, fun c hc => ?_, fun hnone t' ht' => ?_⟩
  · rcases mem_modify_at hx with hold | ⟨v, hv, rfl⟩
    · exact (hheld x hold t' ht').imp_left (List.mem_cons_of_mem _)
    · obtain rfl := Option.some.inj (hu.symm.trans hv)
      obtain rfl := Option.some.inj ht'
      exact ⟨List.mem_cons_self, awake⟩
  · simp only [onWorker, now] at hv hv'
    split_ifs at hv hv' with e1 e2 e2
    · exact e1.symm.trans e2
    · obtain rfl := Option.some.inj hv
      exact absurd (old hv') fresh
    · obtain rfl := Option.some.inj hv'
      exact absurd (old hv) fresh
    · exact hone v v' t' hv hv'
  · obtain ⟨t', ht', hmatch⟩ := hslot c hc
    exact ⟨t', List.mem_cons_of_mem _ ht', hmatch⟩
  · rcases List.mem_cons.1 ht' with rfl | hold
    · exact .inl (held_iff.2 ⟨w, (now w).trans (if_pos rfl)⟩)
    · refine (hopen hnone t' hold).imp_left fun hex => ?_
      obtain ⟨v, hv⟩ := held_iff.1 hex
      have hne : w ≠ v := by
        rintro rfl
        simp [hu, free] at hv
      exact held_iff.2 ⟨v, (now v).trans ((if_neg hne).trans hv)⟩

/-- A worker gives up its tuple, by eval or drop: the slot stays absent only if the tuple does not match (R196, R197). -/
theorem WorkersInv.release {e : SearchInput} {ws ws' : Workers} (h : WorkersInv e ws) {w : Nat} {u : Worker}
    {t : List Nat} (hu : ws.units[w]? = some u) (hcur : u.cur = some t) {f : Worker → Worker}
    (hf : ∀ v, (f v).cur = none) (hunits : ws'.units = ws.units.modify w f) (hclaimed : ws'.claimed = ws.claimed)
    (hflag : ws'.found = true ↔ ws'.slot.isSome = true)
    (hslot : ∀ c, ws'.slot = some c → ∃ t ∈ ws.claimed, c = t.map e.sym ∧ hashOf e.rc c = e.target)
    (hmiss : ws'.slot = none → ws.slot = none ∧ hashOf e.rc (t.map e.sym) ≠ e.target) : WorkersInv e ws' := by
  obtain ⟨-, hnodup, htuple, hheld, hone, -, hopen⟩ := h
  have now (v : Nat) : ws'.units[v]?.bind Worker.cur = if w = v then none else ws.units[v]?.bind Worker.cur := by
    rw [hunits, cur_modify, hu]
    exact ite_congr rfl (fun _ => hf u) fun _ => rfl
  refine ⟨hflag, hclaimed ▸ hnodup, hclaimed ▸ htuple, fun x hx t' ht' => ?_, fun v v' t' hv hv' => ?_,
    hclaimed ▸ hslot, fun hnone t' ht' => ?_⟩
  · rcases mem_modify (hunits ▸ hx) with hold | ⟨v, -, rfl⟩
    · exact hclaimed ▸ hheld x hold t' ht'
    · exact nomatch (hf v).symm.trans ht'
  · rw [now] at hv hv'
    split_ifs at hv hv'
    exact hone v v' t' hv hv'
  · obtain ⟨hwas, hne⟩ := hmiss hnone
    by_cases htt : t' = t
    · exact .inr (htt ▸ hne)
    · refine (hopen hwas t' (hclaimed ▸ ht')).imp_left fun hex => ?_
      obtain ⟨v, hv⟩ := held_iff.1 hex
      have hother : w ≠ v := by
        rintro rfl
        rw [hu] at hv
        exact htt (Option.some.inj (hv.symm.trans hcur))
      exact held_iff.2 ⟨v, (now v).trans ((if_neg hother).trans hv)⟩

/-- A worker that holds no tuple halts (R197). -/
theorem WorkersInv.halt {e : SearchInput} {ws : Workers} (h : WorkersInv e ws) {w : Nat} {u : Worker}
    (hu : ws.units[w]? = some u) (free : u.cur = none) :
    WorkersInv e (onWorker w (fun v => { v with halted := true }) ws) := by
  obtain ⟨hflag, hnodup, htuple, hheld, hone, hslot, hopen⟩ := h
  have now (v : Nat) : ((ws.units.modify w fun v => { v with halted := true })[v]?).bind Worker.cur =
      ws.units[v]?.bind Worker.cur := by
    rw [cur_modify]
    split_ifs with hv
    · subst hv
      rfl
    · rfl
  refine ⟨hflag, hnodup, htuple, fun x hx t' ht' => ?_, fun v v' t' hv hv' => ?_, hslot, fun hnone t' ht' => ?_⟩
  · rcases mem_modify_at hx with hold | ⟨v, hv, rfl⟩
    · exact hheld x hold t' ht'
    · obtain rfl := Option.some.inj (hu.symm.trans hv)
      exact nomatch free.symm.trans ht'
  · exact hone v v' t' ((now v).symm.trans hv) ((now v').symm.trans hv')
  · refine (hopen hnone t' ht').imp_left fun hex => ?_
    obtain ⟨v, hv⟩ := held_iff.1 hex
    exact held_iff.2 ⟨v, (now v).trans hv⟩

/-- eval(w): a match fills the slot if it is absent, and any other tuple is shown not to match (R196). -/
theorem WorkersInv.eval {e : SearchInput} {ws : Workers} (h : WorkersInv e ws) {w : Nat} {u : Worker} {t : List Nat}
    (hu : ws.units[w]? = some u) (hcur : u.cur = some t) : WorkersInv e (evalStep e w u t ws) := by
  have ⟨hflag, _, _, hheld, _, hslot, _⟩ := h
  obtain ⟨ht, -⟩ := hheld u (List.mem_of_getElem? hu) t hcur
  refine h.release hu hcur (fun _ => rfl) (evalStep_units e w u t ws) (evalStep_claimed e w u t ws) ?_ ?_ ?_
  all_goals rw [evalStep_slot]
  · rw [evalStep_found]
    split_ifs
    · simp
    · exact hflag
  · intro c hc
    split_ifs at hc with hmatch
    · obtain rfl := Option.some.inj hc
      cases hs : ws.slot with
      | none => exact ⟨t, ht, rfl, hmatch⟩
      | some d => exact hslot d hs
    · exact hslot c hc
  · intro hnone
    split_ifs at hnone with hmatch
    exact ⟨hnone, hmatch⟩

theorem StepEffect.keeps_workersInv {e : SearchInput} {ws ws' : Workers} {st : WorkerStep} (h : StepEffect e ws st ws')
    (hinv : WorkersInv e ws) : WorkersInv e ws' := by
  cases h with
  | claim hu awake free ht fresh => exact hinv.claim hu awake free ht fresh
  | eval hu hcur => exact hinv.eval hu hcur
  | drop hu hcur hfound =>
    have ⟨hflag, _, _, _, _, hslot, _⟩ := hinv
    have present : ws.slot ≠ none := Option.isSome_iff_ne_none.1 (hflag.1 hfound)
    exact hinv.release hu hcur (fun _ => rfl) rfl rfl hflag hslot fun hnone => absurd hnone present
  | halt hu _ free _ => exact hinv.halt hu free

/-- Settles O35: the start holds and claims nothing, and each of the four steps keeps the invariant. -/
theorem workerStepsKeepTheirInvariant : Obligations.WorkerStepsKeepTheirInvariant :=
  ⟨workersInv_startWorkers, fun _ _ _ hinv hen => (applyStep_effect hen).keeps_workersInv hinv⟩

theorem workersInv_searchRun (p : Params) (n : Nat) (s : State) : WorkersInv (searchInput p s) (searchRun p n s) :=
  runWorkers_keeps _ (fun _ _ _ hinv effect => effect.keeps_workersInv hinv) _ _ _ (workersInv_startWorkers p n _)

/-! ### Every run ends with all workers halted (R198, R199) -/

/-- The steps a worker still takes without a new claim: one for its tuple, one to halt. -/
def stepsOwed (u : Worker) : Nat := (if u.cur.isSome then 1 else 0) + if u.halted then 0 else 1

/-- A bound on the steps to come: two for each tuple not yet handed out, and what each worker owes. -/
def stepsLeft (e : SearchInput) (ws : Workers) : Nat :=
  2 * (e.size ^ e.length - ws.claimed.length) + (ws.units.map stepsOwed).sum

theorem stepsLeft_startWorkers (p : Params) (n : Nat) (e : SearchInput) :
    stepsLeft e (startWorkers p n) = searchBound p e := by
  simp [stepsLeft, startWorkers, searchBound, stepsOwed, Function.comp_def]

/-- A sum over a list, when one entry changes. -/
theorem sum_map_modify {α : Type} {l : List α} {n : Nat} {x : α} (hx : l[n]? = some x) (f : α → α) (g : α → Nat) :
    ((l.modify n f).map g).sum + g x = (l.map g).sum + g (f x) := by
  obtain ⟨before, y, after, rfl, rfl, hmodify⟩ := List.exists_of_modify f (List.getElem?_eq_some_iff.1 hx).1
  obtain rfl : y = x := by simpa using hx
  rw [hmodify]
  simp only [List.map_append, List.map_cons, List.sum_append, List.sum_cons]
  omega

/-- No tuple is handed out twice, so while one is fresh fewer than N^L are claimed (R195). -/
theorem WorkersInv.claimed_lt {e : SearchInput} {ws : Workers} (h : WorkersInv e ws) {t : List Nat}
    (ht : t ∈ allTuples e.size e.length) (fresh : t ∉ ws.claimed) : ws.claimed.length < e.size ^ e.length := by
  obtain ⟨-, hnodup, htuple, -⟩ := h
  have inSpace : t :: ws.claimed ⊆ allTuples e.size e.length :=
    List.cons_subset.2 ⟨ht, fun t' ht' => mem_allTuples.2 (htuple t' ht')⟩
  have := ((List.nodup_cons.2 ⟨fresh, hnodup⟩).subperm inSpace).length_le
  rwa [allTuples_length, List.length_cons] at this

/-- A worker that gives up its tuple owes one step less. -/
theorem stepsOwed_release {u v : Worker} {t : List Nat} (hcur : u.cur = some t) (hv : v.cur = none)
    (hh : v.halted = u.halted) : stepsOwed v + 1 = stepsOwed u := by
  simp [stepsOwed, hcur, hv, hh, Nat.add_comm]

/-- Each enabled step brings the end nearer. -/
theorem StepEffect.stepsLeft_lt {e : SearchInput} {ws ws' : Workers} {st : WorkerStep} (h : StepEffect e ws st ws')
    (hinv : WorkersInv e ws) : stepsLeft e ws' < stepsLeft e ws := by
  cases h with
  | @claim w u t hu awake free ht fresh =>
    have room := hinv.claimed_lt ht fresh
    have sum := sum_map_modify hu (fun v => { v with cur := some t }) stepsOwed
    have before : stepsOwed u = 1 := by simp [stepsOwed, awake, free]
    have after : stepsOwed { u with cur := some t } = 2 := by simp [stepsOwed, awake]
    simp only [stepsLeft, onWorker, List.length_cons]
    omega
  | @eval w u t hu hcur =>
    have sum := sum_map_modify hu
      (fun v => { v with cur := none, lanes := (hashOn e.rc u.lanes (candidateOf e.sym t)).lanes }) stepsOwed
    have owed := stepsOwed_release
      (v := { u with cur := none, lanes := (hashOn e.rc u.lanes (candidateOf e.sym t)).lanes }) hcur rfl rfl
    simp only [stepsLeft, evalStep_units, evalStep_claimed]
    omega
  | @drop w u t hu hcur _ =>
    have sum := sum_map_modify hu (fun v => { v with cur := none }) stepsOwed
    have owed := stepsOwed_release (v := { u with cur := none }) hcur rfl rfl
    simp only [stepsLeft, onWorker]
    omega
  | @halt w u hu awake free _ =>
    have sum := sum_map_modify hu (fun v => { v with halted := true }) stepsOwed
    have before : stepsOwed u = 1 := by simp [stepsOwed, awake, free]
    have after : stepsOwed { u with halted := true } = 0 := by simp [stepsOwed, free]
    simp only [stepsLeft, onWorker]
    omega

theorem allHalted_iff {ws : Workers} : allHalted ws = true ↔ ∀ u ∈ ws.units, u.halted = true := List.all_eq_true

theorem allHalted_of_stepsLeft_eq_zero {e : SearchInput} {ws : Workers} (h : stepsLeft e ws = 0) :
    allHalted ws = true := by
  refine allHalted_iff.2 fun u hu => ?_
  have owesNothing : stepsOwed u = 0 :=
    List.sum_eq_zero_iff.1 (Nat.add_eq_zero_iff.1 h).2 _ (List.mem_map_of_mem hu)
  by_contra awake
  simp [stepsOwed, awake] at owesNothing

/-- A worker that has not halted has a step to take (R195 to R197). -/
theorem exists_stepEnabled {e : SearchInput} {ws : Workers} (h : allHalted ws = false) :
    ∃ st, stepEnabled e ws st = true := by
  obtain ⟨u, hmem, hawake⟩ := List.all_eq_false.1 h
  obtain ⟨w, hu⟩ := List.mem_iff_getElem?.1 hmem
  have awake : u.halted = false := Bool.eq_false_iff.2 hawake
  cases hcur : u.cur with
  | some t => exact ⟨.eval w, stepEnabled_eval.2 ⟨u, t, hu, hcur⟩⟩
  | none =>
    by_cases done : SearchDone e ws
    · exact ⟨.halt w, stepEnabled_halt.2 ⟨u, hu, awake, hcur, done⟩⟩
    · obtain ⟨notFound, fresh⟩ := not_or.1 done
      push Not at fresh
      obtain ⟨t, ht, hfresh⟩ := fresh
      exact ⟨.claim w t, stepEnabled_claim.2 ⟨u, hu, awake, hcur, Bool.eq_false_iff.2 notFound, ht, hfresh⟩⟩

/-- While some worker has not halted the run takes a further step, whatever the schedule. -/
theorem runWorkers_succ {e : SearchInput} {ws : Workers} (h : allHalted ws = false) (sched : Nat → Nat) (fuel i : Nat) :
    ∃ st, stepEnabled e ws st = true ∧
      runWorkers e sched (fuel + 1) i ws = runWorkers e sched fuel (i + 1) (applyStep e ws st) := by
  obtain ⟨st, hst⟩ := exists_stepEnabled (e := e) h
  have offered : enabledSteps e ws ≠ [] := List.ne_nil_of_mem (mem_enabledSteps.2 hst)
  obtain ⟨next, hnext⟩ := Option.isSome_iff_exists.1 (selectStep_isSome offered (sched i))
  exact ⟨next, mem_enabledSteps.1 (selectStep_mem hnext), runWorkers_step h hnext⟩

/-- With fuel for the steps that are left, a run ends with every worker halted. -/
theorem allHalted_runWorkers {e : SearchInput} {sched : Nat → Nat} {fuel i : Nat} {ws : Workers} (hinv : WorkersInv e ws)
    (enough : stepsLeft e ws ≤ fuel) : allHalted (runWorkers e sched fuel i ws) = true := by
  induction fuel generalizing i ws with
  | zero => exact allHalted_of_stepsLeft_eq_zero (Nat.le_zero.1 enough)
  | succ fuel ih =>
    cases halted : allHalted ws with
    | true => rwa [runWorkers_halted halted]
    | false =>
      obtain ⟨st, hst, hrun⟩ := runWorkers_succ (e := e) halted sched fuel i
      have effect := applyStep_effect hst
      have nearer := effect.stepsLeft_lt hinv
      rw [hrun]
      exact ih (effect.keeps_workersInv hinv) (by omega)

/-- Settles O36: `searchBound` is the bound on the steps left at the start. -/
theorem everySearchRunHaltsEveryWorker : Obligations.EverySearchRunHaltsEveryWorker :=
  fun p n _ => allHalted_runWorkers (workersInv_startWorkers p n _) (stepsLeft_startWorkers p n _).le

/-! ### Workers halt only when the search is done (R197) -/

/-- There are workers, and one that has halted did so because nothing was left to hand out. -/
def HaltedWhenDone (e : SearchInput) (ws : Workers) : Prop :=
  ws.units ≠ [] ∧ ∀ u ∈ ws.units, u.halted = true → SearchDone e ws

theorem haltedWhenDone_startWorkers (p : Params) (n : Nat) (e : SearchInput) :
    HaltedWhenDone e (startWorkers p n) := by
  refine ⟨by simp [startWorkers, Params.workers], fun u hu halted => ?_⟩
  exact nomatch (startWorkers_unit hu).2.symm.trans halted

/-- A search that is done stays done. -/
theorem StepEffect.keeps_searchDone {e : SearchInput} {ws ws' : Workers} {st : WorkerStep} (h : StepEffect e ws st ws')
    (done : SearchDone e ws) : SearchDone e ws' := by
  cases h with
  | claim => exact done.imp_right fun all t ht => List.mem_cons_of_mem _ (all t ht)
  | eval =>
    rw [SearchDone, evalStep_found, evalStep_claimed]
    refine done.imp_left fun hfound => ?_
    split_ifs
    · rfl
    · exact hfound
  | drop | halt => exact done

/-- One worker changes, and if it halts the search is done (R197). -/
theorem StepEffect.units_eq {e : SearchInput} {ws ws' : Workers} {st : WorkerStep} (h : StepEffect e ws st ws') :
    ∃ w f, ws'.units = ws.units.modify w f ∧
      ∀ u : Worker, (f u).halted = true → u.halted = true ∨ SearchDone e ws := by
  cases h with
  | claim | drop => exact ⟨_, _, rfl, fun _ => .inl⟩
  | eval => exact ⟨_, _, evalStep_units .., fun _ => .inl⟩
  | halt _ _ _ done => exact ⟨_, _, rfl, fun _ _ => .inr done⟩

theorem StepEffect.keeps_haltedWhenDone {e : SearchInput} {ws ws' : Workers} {st : WorkerStep}
    (h : StepEffect e ws st ws') (hinv : HaltedWhenDone e ws) : HaltedWhenDone e ws' := by
  obtain ⟨hne, hdone⟩ := hinv
  obtain ⟨w, f, hunits, hf⟩ := h.units_eq
  refine ⟨?_, fun u hu halted => h.keeps_searchDone ?_⟩
  · rwa [hunits, Ne, List.modify_eq_nil_iff]
  · rcases mem_modify (hunits ▸ hu) with hold | ⟨v, hv, rfl⟩
    · exact hdone u hold halted
    · exact (hf v halted).elim (hdone v hv) id

theorem haltedWhenDone_searchRun (p : Params) (n : Nat) (s : State) :
    HaltedWhenDone (searchInput p s) (searchRun p n s) :=
  runWorkers_keeps _ (fun _ _ _ hinv effect => effect.keeps_haltedWhenDone hinv) _ _ _
    (haltedWhenDone_startWorkers p n _)

/-- Once every worker has halted the search is done. -/
theorem searchDone_of_allHalted {e : SearchInput} {ws : Workers} (h : HaltedWhenDone e ws) (halted : allHalted ws = true) :
    SearchDone e ws := by
  obtain ⟨hne, hdone⟩ := h
  obtain ⟨u, hu⟩ := List.exists_mem_of_ne_nil _ hne
  exact hdone u hu (allHalted_iff.1 halted u hu)

/-! ### The relation R191 -/

/-- The candidates are those of the tuples (R175, R190). -/
theorem isCandidate_iff {p : Params} {s : State} {c : List Byte} :
    IsCandidate p s c ↔ ∃ t ∈ allTuples (alphabetSize s) (tupleLength s), c = candidateOf (symbol p s) t := by
  constructor
  · rintro ⟨hlen, hsym⟩
    choose! position hlt hbyte using hsym
    refine ⟨c.map position, mem_allTuples.2 ⟨by rw [List.length_map, hlen], List.forall_mem_map.2 hlt⟩, ?_⟩
    rw [candidateOf, List.map_map]
    exact (List.map_id c).symm.trans (List.map_congr_left hbyte)
  · rintro ⟨t, ht, rfl⟩
    obtain ⟨hlen, hlt⟩ := mem_allTuples.1 ht
    exact ⟨by rw [candidateOf, List.length_map, hlen], List.forall_mem_map.2 fun d hd => ⟨d, hlt d hd, rfl⟩⟩

/-- A match is the candidate of a tuple whose digest is the target that the workers compare with. -/
theorem isMatch_iff {p : Params} {s : State} {c : List Byte} :
    IsMatch p s c ↔ ∃ t ∈ allTuples (alphabetSize s) (tupleLength s),
      c = candidateOf (symbol p s) t ∧ hashOf p.rc (candidateOf (symbol p s) t) = targetBytes p s := by
  constructor
  · rintro ⟨hcand, hhash⟩
    obtain ⟨t, ht, rfl⟩ := isCandidate_iff.1 hcand
    exact ⟨t, ht, rfl, hhash⟩
  · rintro ⟨t, ht, rfl, hhash⟩
    exact ⟨isCandidate_iff.2 ⟨t, ht, rfl⟩, hhash⟩

/-- A slot that is present holds a match (R196). -/
theorem isMatch_of_slot {p : Params} {s : State} {ws : Workers} (hinv : WorkersInv (searchInput p s) ws) {c : List Byte}
    (hc : ws.slot = some c) : IsMatch p s c := by
  obtain ⟨-, -, htuple, -, -, hslot, -⟩ := hinv
  obtain ⟨t, ht, rfl, hhash⟩ := hslot c hc
  exact isMatch_iff.2 ⟨t, mem_allTuples.2 (htuple t ht), rfl, hhash⟩

/-- Once the search is done and every worker has halted, an absent slot means that no candidate matches. -/
theorem not_isMatch_of_slot_none {p : Params} {s : State} {ws : Workers} (hinv : WorkersInv (searchInput p s) ws)
    (halted : allHalted ws = true) (done : SearchDone (searchInput p s) ws) (hnone : ws.slot = none) (c : List Byte) :
    ¬IsMatch p s c := by
  obtain ⟨hflag, -, -, hheld, -, -, hopen⟩ := hinv
  intro hmatch
  obtain ⟨t, ht, -, hhash⟩ := isMatch_iff.1 hmatch
  have claimed : t ∈ ws.claimed := by
    rcases done with found | all
    · exact nomatch hnone ▸ hflag.1 found
    · exact all t ht
  rcases hopen hnone t claimed with ⟨u, hu, hcur⟩ | hne
  · exact nomatch (hheld u hu t hcur).2.symm.trans (allHalted_iff.1 halted u hu)
  · exact hne hhash

/-- Settles O37: the invariant at the last halt, where every worker has halted and the search is done. -/
theorem searchRunImplementsTheRelation : Obligations.SearchRunImplementsTheRelation := by
  intro p n s
  have hinv := workersInv_searchRun p n s
  have halted := everySearchRunHaltsEveryWorker p n s
  have done := searchDone_of_allHalted (haltedWhenDone_searchRun p n s) halted
  exact ⟨fun c hc => isMatch_of_slot hinv hc, not_isMatch_of_slot_none hinv halted done⟩

/-! ### A schedule for every match (R200) -/

/-- What is in the slot stays there (R196). -/
theorem StepEffect.keeps_slot {e : SearchInput} {ws ws' : Workers} {st : WorkerStep} (h : StepEffect e ws st ws')
    {c : List Byte} (hc : ws.slot = some c) : ws'.slot = some c := by
  cases h with
  | eval => rw [evalStep_slot, hc, Option.getD_some, ite_self]
  | claim | drop | halt => exact hc

/-- Some worker has not halted while a step is enabled. -/
theorem allHalted_eq_false {e : SearchInput} {ws : Workers} {st : WorkerStep} (hinv : WorkersInv e ws)
    (h : stepEnabled e ws st = true) : allHalted ws = false := by
  obtain ⟨-, -, -, hheld, -⟩ := hinv
  have awakeUnit {w : Nat} {u : Worker} (hu : ws.units[w]? = some u) (awake : u.halted = false) :
      allHalted ws = false :=
    List.all_eq_false.2 ⟨u, List.mem_of_getElem? hu, Bool.eq_false_iff.1 awake⟩
  have effect := applyStep_effect h
  generalize applyStep e ws st = ws' at effect
  cases effect with
  | claim hu awake | halt hu awake => exact awakeUnit hu awake
  | eval hu hcur | drop hu hcur => exact awakeUnit hu (hheld _ (List.mem_of_getElem? hu) _ hcur).2

/-- A schedule can take any enabled step next. -/
theorem exists_schedule_step {e : SearchInput} {ws : Workers} {st : WorkerStep} (hinv : WorkersInv e ws)
    (h : stepEnabled e ws st = true) : ∃ k, ∀ (sched : Nat → Nat) (fuel i : Nat), sched i = k →
      runWorkers e sched (fuel + 1) i ws = runWorkers e sched fuel (i + 1) (applyStep e ws st) := by
  obtain ⟨k, hk⟩ := List.mem_iff_getElem?.1 (mem_enabledSteps.2 h)
  have inRange := (List.getElem?_eq_some_iff.1 hk).1
  refine ⟨k, fun sched fuel i hi => runWorkers_step (allHalted_eq_false hinv h) ?_⟩
  rw [selectStep, hi, Nat.mod_eq_of_lt inRange, hk]

/-- Two enabled steps, one after the other, begin some run. -/
theorem exists_schedule_two {e : SearchInput} {ws : Workers} {first second : WorkerStep} (hinv : WorkersInv e ws)
    (h1 : stepEnabled e ws first = true) (h2 : stepEnabled e (applyStep e ws first) second = true) :
    ∃ sched : Nat → Nat, ∀ fuel, runWorkers e sched (fuel + 2) 0 ws =
      runWorkers e sched fuel 2 (applyStep e (applyStep e ws first) second) := by
  obtain ⟨j, hj⟩ := exists_schedule_step hinv h1
  obtain ⟨k, hk⟩ := exists_schedule_step ((applyStep_effect h1).keeps_workersInv hinv) h2
  exact ⟨fun i => if i = 0 then j else k, fun fuel => (hj _ (fuel + 1) 0 rfl).trans (hk _ fuel 1 rfl)⟩

theorem startWorkers_first (p : Params) (n : Nat) :
    ∃ u, (startWorkers p n).units[0]? = some u ∧ u.halted = false ∧ u.cur = none := by
  simp [startWorkers, Params.workers]

/-- Worker 0 may claim any tuple first. -/
theorem stepEnabled_first_claim (p : Params) (n : Nat) {e : SearchInput} {t : List Nat}
    (ht : t ∈ allTuples e.size e.length) : stepEnabled e (startWorkers p n) (.claim 0 t) = true := by
  obtain ⟨u, hu, awake, free⟩ := startWorkers_first p n
  exact stepEnabled_claim.2 ⟨u, hu, awake, free, rfl, ht, List.not_mem_nil⟩

/-- There is a tuple, so a run may take at least two steps. -/
theorem two_le_searchBound (p : Params) {e : SearchInput} {t : List Nat} (ht : t ∈ allTuples e.size e.length) :
    2 ≤ searchBound p e := by
  have := List.length_pos_of_mem ht
  rw [allTuples_length] at this
  rw [searchBound]
  omega

/-- The worker that claims a matching tuple first and evaluates it at once fills the slot. -/
theorem slot_claim_eval (p : Params) (n : Nat) {e : SearchInput} {t : List Nat}
    (hhash : hashOf e.rc (candidateOf e.sym t) = e.target) :
    stepEnabled e (applyStep e (startWorkers p n) (.claim 0 t)) (.eval 0) = true ∧
      (applyStep e (applyStep e (startWorkers p n) (.claim 0 t)) (.eval 0)).slot = some (candidateOf e.sym t) := by
  obtain ⟨u, hu, -, -⟩ := startWorkers_first p n
  have holds : (applyStep e (startWorkers p n) (.claim 0 t)).units[0]? = some { u with cur := some t } := by
    simp [applyStep, onWorker, hu]
  refine ⟨stepEnabled_eval.2 ⟨_, t, holds, rfl⟩, ?_⟩
  rw [applyStep_eval holds rfl, evalStep_slot, if_pos hhash]
  rfl

/-- Settles O38: worker 0 claims the match and evaluates it before any other step, and the slot is never written again. -/
theorem everyMatchIsSomeSchedulesResult : Obligations.EveryMatchIsSomeSchedulesResult := by
  intro p n s c hmatch
  obtain ⟨t, ht, rfl, hhash⟩ := isMatch_iff.1 hmatch
  obtain ⟨enabled, hslot⟩ := slot_claim_eval p n (e := searchInput p s) hhash
  obtain ⟨sched, hrun⟩ := exists_schedule_two (workersInv_startWorkers p n (searchInput p s))
    (stepEnabled_first_claim p n ht) enabled
  obtain ⟨fuel, hfuel⟩ := Nat.exists_eq_add_of_le' (two_le_searchBound p (e := searchInput p s) ht)
  refine ⟨fun _ => sched, ?_⟩
  change (runWorkers (searchInput p s) sched (searchBound p (searchInput p s)) 0 (startWorkers p n)).slot = _
  rw [hfuel, hrun]
  exact runWorkers_keeps (fun ws => ws.slot = some (candidateOf (symbol p s) t))
    (fun _ _ _ hc effect => effect.keeps_slot hc) _ _ _ hslot

/-! ### What SEARCH answers (R191, R198, R201, R205) -/

/-- SEARCH with good parameters ends on a match, or on none where there is none. -/
theorem searchCommand_cases {p : Params} {s : State} (good : ¬TupleParameterBad p s) :
    (∃ c, IsMatch p s c ∧ searchCommand p s = finishSearch p (some c) s) ∨
      (¬∃ c, IsMatch p s c) ∧ searchCommand p s = finishSearch p none s := by
  obtain ⟨present, absent⟩ := searchRunImplementsTheRelation p s.draws s
  rw [searchCommand_good good]
  cases hslot : (searchRun p s.draws s).slot with
  | some c => exact .inl ⟨c, present c hslot, rfl⟩
  | none => exact .inr ⟨not_exists.2 (absent hslot), rfl⟩

/-- RESULT after a search that found `bs`, byte by byte: none of them is a draw (R41). -/
theorem byteAt_result_finishSearch (p q : Params) (s : State) {bs : List Byte} {k : Nat} (hk : k < bs.length) :
    byteAt q (finishSearch p (some bs) s) .result k = bs[k] := by
  rw [byteAt, spaceOf_finishSearch, if_pos rfl, Option.getD_some, readByte_writeBytes]
  simp [hk]

/-- `RESULT[0..L-1]` after a search that found `c` (R41). -/
theorem result_finishSearch {p : Params} {s : State} {c : List Byte} (hlen : c.length = tupleLength s) :
    (List.range s.tupleL.toNat).map (byteAt p (finishSearch p (some c) s) .result) = c := by
  refine List.ext_getElem (by simp [hlen, tupleLength]) fun k _ hk => ?_
  rw [List.getElem_map, List.getElem_range, byteAt_result_finishSearch p p s hk]

/-- Settles O39: `finishSearch` on a match, or on none. -/
theorem searchAnswersTheRelation : Obligations.SearchAnswersTheRelation := by
  refine ⟨exec_search, ?_⟩
  rintro p s _ good rfl
  obtain ⟨c, hmatch, hend⟩ | ⟨noMatch, hend⟩ := searchCommand_cases good <;> rw [hend]
  · have result := result_finishSearch (p := p) hmatch.1.1
    exact ⟨finishSearch_fault p _ s, fun _ => ⟨rfl, rfl, ⟨rfl, rfl⟩, result.symm ▸ hmatch⟩,
      fun noMatch => absurd ⟨c, hmatch⟩ noMatch⟩
  · exact ⟨finishSearch_fault p _ s, fun hex => absurd hex noMatch, fun _ => ⟨rfl, rfl, rfl, rfl⟩⟩

/-- Settles O41: the other parameters leave the matches as they are, so both searches find or neither does; and where there
is one match, both find it. -/
theorem searchOutcomeIgnoresTheSchedule : Obligations.SearchOutcomeIgnoresTheSchedule := by
  intro p w sched el ln s good
  have other := searchCommand_cases
    (p := { p with workersLess1 := w, schedule := sched, drawElapsed := el, drawLane := ln }) (s := s) good
  obtain ⟨c, hc, hend⟩ | ⟨noMatch, hend⟩ := searchCommand_cases good <;>
    obtain ⟨c', hc', hend'⟩ | ⟨noMatch', hend'⟩ := other
  · rw [hend, hend']
    refine ⟨rfl, rfl, rfl, fun unique k hk => ?_⟩
    obtain rfl := unique c c' hc hc'
    have hk' : k < c.length := hc.1.1.symm ▸ hk
    rw [byteAt_result_finishSearch _ p s hk', byteAt_result_finishSearch p p s hk']
  · exact absurd ⟨c, hc⟩ noMatch'
  · exact absurd ⟨c', hc'⟩ noMatch
  · rw [hend, hend']
    exact ⟨rfl, rfl, rfl, fun _ k hk => absurd hk (Nat.not_lt_zero k)⟩

/-- Settles O42: the candidate is a match, so what SEARCH answers is one. -/
theorem searchFindsTheDigestOfACandidate : Obligations.SearchFindsTheDigestOfACandidate := by
  refine ⟨exec_search, ?_⟩
  rintro p s _ c good hcand htarget rfl
  obtain ⟨-, answers⟩ := searchAnswersTheRelation
  obtain ⟨-, found, -⟩ := answers p s _ good rfl
  obtain ⟨hsstate, -, -, -, hhash⟩ := found ⟨c, hcand, htarget.symm⟩
  exact ⟨hsstate, hhash.trans htarget⟩

end Sys2Proof.Machine

/-! Exceptions (spec/60_exceptions.md): an illegal word raises and does nothing else, and no command looks at FAULT, CAUSE or
XINFO. -/

namespace Sys2Proof.Machine

open Sys2Proof.Config

/-! ### IllegalCommand (R95, R221, R228) -/

theorem exists_decode_eq_error_of_not_mem_legalWords {w : Word} (hw : w ∉ legalWords) : ∃ e, decode w = .error e := by
  cases hd : decode w with
  | error e => exact ⟨e, rfl⟩
  | ok i => exact absurd ((exists_decode_eq_ok_iff_mem_legalWords w).1 ⟨i, hd⟩) hw

/-- Settles O6: the word goes to the decoder, which rejects it, and `raise` changes nothing but the exception registers. -/
theorem illegalWordOnlyRaises : Obligations.IllegalWordOnlyRaises := by
  intro s v rest hp hw
  obtain ⟨e, hd⟩ := exists_decode_eq_error_of_not_mem_legalWords hw
  refine ⟨raise .illegalCommand (v.setWidth 16) { s with pending := rest }, ?_, onlyRaises_raise _ _ _⟩
  calc step s = writeRegister v { s with pending := rest } 0 := step_cons hp
    _ = issueCommand (v.setWidth 16) { s with pending := rest } := writeRegister_command v _
    _ = .next (raise .illegalCommand (v.setWidth 16) { s with pending := rest }) := issueCommand_illegal hd _

/-! ### FAULT, CAUSE and XINFO influence nothing else (R223, R229) -/

/-- `s` with other contents of CAUSE, XINFO and FAULT. -/
def withExceptions (x : Option Exception) (w : Word) (f : Bool) (s : State) : State :=
  { s with cause := x, xinfo := w, fault := f }

/-- `u` differs from `t` at most in CAUSE, XINFO and FAULT. -/
def SameButExceptions (t u : State) : Prop := u = withExceptions u.cause u.xinfo u.fault t

/-- A change of the state to which CAUSE, XINFO and FAULT make no difference, but perhaps in those three themselves. -/
def IgnoresExceptions (g : State → State) : Prop :=
  ∀ x w f s, SameButExceptions (g s) (g (withExceptions x w f s))

theorem ignoresExceptions_onLanes (g : StateMatrix → StateMatrix) : IgnoresExceptions (onLanes g) := fun _ _ _ _ => rfl

theorem ignoresExceptions_raise (x : Exception) (cw : Word) : IgnoresExceptions (raise x cw) := fun _ _ _ _ => rfl

theorem ignoresExceptions_restartEnumerator : IgnoresExceptions restartEnumerator := fun _ _ _ _ => rfl

theorem ignoresExceptions_emit (p : Params) (t : List Nat) : IgnoresExceptions (emit p t) := fun _ _ _ _ => rfl

theorem ignoresExceptions_exhaustTuples : IgnoresExceptions exhaustTuples := fun _ _ _ _ => rfl

theorem ignoresExceptions_finishSearch (p : Params) (slot : Option (List Byte)) :
    IgnoresExceptions (finishSearch p slot) := by
  intro x w f s
  cases slot with
  | none => rfl
  | some c => rfl

theorem ignoresExceptions_onRound (i : Instr) (r : BitVec 4) (g : Fin 10 → StateMatrix → StateMatrix) :
    IgnoresExceptions (onRound i r g) := by
  unfold onRound
  cases roundIndex r with
  | some k => exact ignoresExceptions_onLanes (g k)
  | none => exact ignoresExceptions_raise _ _

/-- HASH: the check reads MSG_LEN, the computation MSG_LEN, MSG and the lanes. -/
theorem ignoresExceptions_hashCommand (p : Params) : IgnoresExceptions (hashCommand p) := by
  intro x w f s
  by_cases long : MessageTooLong p s
  · rw [hashCommand_tooLong long, hashCommand_tooLong (s := withExceptions x w f s) long]
    exact ignoresExceptions_raise _ _ x w f s
  · rw [hashCommand_fits long, hashCommand_fits (s := withExceptions x w f s) long]
    rfl

/-- E.NEXT: the check, ESTATE, the alphabet's size and the tuple decide between its outcomes. -/
theorem ignoresExceptions_nextTuple (p : Params) : IgnoresExceptions (nextTuple p) := by
  intro x w f s
  by_cases bad : TupleParameterBad p s
  · rw [nextTuple_bad bad, nextTuple_bad (s := withExceptions x w f s) bad]
    exact ignoresExceptions_raise _ _ x w f s
  cases he : s.estate with
  | notStarted =>
    by_cases hN : alphabetSize s = 0
    · rw [nextTuple_empty bad he hN, nextTuple_empty (s := withExceptions x w f s) bad he hN]
      exact ignoresExceptions_exhaustTuples x w f s
    · rw [nextTuple_first bad he hN, nextTuple_first (s := withExceptions x w f s) bad he hN]
      exact ignoresExceptions_emit p _ x w f s
  | atTuple =>
    cases ht : advance (alphabetSize s) (currentTuple p s) with
    | none =>
      rw [nextTuple_last bad he ht, nextTuple_last (s := withExceptions x w f s) bad he ht]
      exact ignoresExceptions_exhaustTuples x w f s
    | some t =>
      rw [nextTuple_advance bad he ht, nextTuple_advance (s := withExceptions x w f s) bad he ht]
      exact ignoresExceptions_emit p t x w f s
  | exhausted =>
    rw [nextTuple_exhausted bad he, nextTuple_exhausted (s := withExceptions x w f s) bad he]
    rfl

/-- The worker machine of a SEARCH runs on the same input, from the same start, under the same schedule. -/
theorem searchRun_withExceptions (p : Params) (n : Nat) (x : Option Exception) (w : Word) (f : Bool) (s : State) :
    searchRun p n (withExceptions x w f s) = searchRun p n s := rfl

theorem ignoresExceptions_searchCommand (p : Params) : IgnoresExceptions (searchCommand p) := by
  intro x w f s
  by_cases bad : TupleParameterBad p s
  · rw [searchCommand_bad bad, searchCommand_bad (s := withExceptions x w f s) bad]
    exact ignoresExceptions_raise _ _ x w f s
  · rw [searchCommand_good bad, searchCommand_good (s := withExceptions x w f s) bad, searchRun_withExceptions]
    exact ignoresExceptions_finishSearch p _ x w f s

/-- Every command is a change of the state that ignores the exception registers. -/
theorem exec_ignoresExceptions (i : Instr) : ∃ g, IgnoresExceptions g ∧ ∀ s, exec i s = .next (g s) := by
  cases i with
  | stClr | theta | rho | pi | chi | permute => exact ⟨_, ignoresExceptions_onLanes _, fun _ => rfl⟩
  | iota r | round r => exact ⟨_, ignoresExceptions_onRound _ r _, fun _ => rfl⟩
  | hash => exact ⟨_, ignoresExceptions_hashCommand Config.hw, exec_hash⟩
  | eInit => exact ⟨_, ignoresExceptions_restartEnumerator, exec_eInit⟩
  | eNext => exact ⟨_, ignoresExceptions_nextTuple Config.hw, exec_eNext⟩
  | search => exact ⟨_, ignoresExceptions_searchCommand Config.hw, exec_search⟩

/-- Settles O54: the same change of the state, applied to both. -/
theorem exceptionsDisableNothing : Obligations.ExceptionsDisableNothing := by
  intro i s x w f t ht
  obtain ⟨g, ignores, hexec⟩ := exec_ignoresExceptions i
  cases (hexec s).symm.trans ht
  exact ⟨g (withExceptions x w f s), hexec _, ignores x w f s⟩

end Sys2Proof.Machine

/-! Reset (spec/70_reset_and_hazards.md R250): one that comes alone and one that cuts a command off do the same, from every
state. -/

namespace Sys2Proof.Machine

open Sys2Proof.Config

/-- Of a command a reset cuts off only the reset is left (R250). -/
theorem hostAction_eq_hostReset {p : Params} {a : HostAction} (s : State) (ha : a = .reset ∨ ∃ cw, a = .abort cw) :
    hostAction p a s = .next (hostReset p s) := by
  obtain rfl | ⟨cw, rfl⟩ := ha
  · rfl
  · rfl

theorem step_reset {s : State} {rest : List HostAction}
    (hp : s.pending = .reset :: rest ∨ ∃ cw, s.pending = .abort cw :: rest) :
    step s = .next (hostReset Config.hw { s with pending := rest }) := by
  obtain hp | ⟨cw, hp⟩ := hp
  · exact (step_cons hp).trans (hostAction_eq_hostReset _ (.inl rfl))
  · exact (step_cons hp).trans (hostAction_eq_hostReset _ (.inr ⟨cw, rfl⟩))

/-- A reset clears the four fields STATUS shows (R28, R46). -/
theorem statusWord_hostReset (p : Params) (s : State) : statusWord (hostReset p s) = 0 := by
  simp only [statusWord, hostReset_fault, hostReset_dvalid, hostReset_sstate, hostReset_estate, State.resetWith]
  rfl

/-- A reset stores no byte in any space: what it reads there is unspecified (R46). -/
theorem spaceOf_hostReset_cells (p : Params) (s : State) (sp : Space) : (spaceOf (hostReset p s) sp).cells = [] := by
  cases sp <;> rfl

/-- Settles O50: both actions are `hostReset`, whose registers and lanes are those of `State.resetWith`. -/
theorem resetAtAnyTimeGivesTheResetState : Obligations.ResetAtAnyTimeGivesTheResetState := fun _ _ hp =>
  ⟨_, step_reset hp, lane_zero, statusWord_hostReset _ _, rfl, rfl, rfl, rfl, rfl, rfl, spaceOf_hostReset_cells _ _, rfl, rfl⟩

end Sys2Proof.Machine
